-- ==== Sys2Proof/Word.lean ====
section
/-! DEFINITION. The word types of the core: bytes (V, DT, ST, MEM; 10_state R30) and 16-bit words (I, PC, STACK entries, the instruction word; 30_encoding R100). -/

namespace Sys2Proof

/-- One byte: the width of a V register, a timer and a memory cell (10_state R30). -/
abbrev Byte := BitVec 8

/-- One 16-bit word: the width of I, PC, a stack entry and an instruction (10_state R30, 30_encoding R100). -/
abbrev Word := BitVec 16

/-- A register index, the X and Y fields of an instruction (30_encoding R102). -/
abbrev RegIdx := BitVec 4

/-- A 12-bit absolute address, the NNN field of an instruction (30_encoding R102). -/
abbrev Addr12 := BitVec 12

end Sys2Proof
end

