-- ==== Sys2Proof/Syntax.lean ====
section
/-! DEFINITION. The 35 instructions of the opcode table, one constructor per row (30_encoding R106). Every field of the word is kept, whether or not the meaning reads it (30_encoding R108). -/

namespace Sys2Proof

/-- One constructor per row of spec/opcode_table.json, in the order of 30_encoding R106. -/
inductive Instr where
  | sys (nnn : Addr12)
  | cls
  | ret
  | jp (nnn : Addr12)
  | call (nnn : Addr12)
  | seByte (x : RegIdx) (nn : Byte)
  | sneByte (x : RegIdx) (nn : Byte)
  | seReg (x y : RegIdx)
  | ldByte (x : RegIdx) (nn : Byte)
  | addByte (x : RegIdx) (nn : Byte)
  | ldReg (x y : RegIdx)
  | or (x y : RegIdx)
  | and (x y : RegIdx)
  | xor (x y : RegIdx)
  | addReg (x y : RegIdx)
  | sub (x y : RegIdx)
  | shr (x y : RegIdx)
  | subn (x y : RegIdx)
  | shl (x y : RegIdx)
  | sneReg (x y : RegIdx)
  | ldI (nnn : Addr12)
  | jpV0 (nnn : Addr12)
  | rnd (x : RegIdx) (nn : Byte)
  | drw (x y : RegIdx) (n : BitVec 4)
  | skp (x : RegIdx)
  | sknp (x : RegIdx)
  | ldVxDT (x : RegIdx)
  | ldVxK (x : RegIdx)
  | ldDTVx (x : RegIdx)
  | ldSTVx (x : RegIdx)
  | addIVx (x : RegIdx)
  | ldFVx (x : RegIdx)
  | ldBVx (x : RegIdx)
  | ldMemVx (x : RegIdx)
  | ldVxMem (x : RegIdx)
deriving DecidableEq, Repr

end Sys2Proof
end

