-- ==== Sys2Proof/Decode.lean ====
section
/-! DEFINITION. The decoder and the encoder (30_encoding R100 to R110). The decoder is a pure total function of the 16-bit word (R105); a word that matches no row is rejected by name. -/

namespace Sys2Proof

/-- What the decoder answers: an instruction, or the name of the rejection (30_encoding R105, R110). -/
inductive Decoded where
  | instr (i : Instr)
  | unknownOpcode
deriving DecidableEq, Repr

/-- `op`, the family (30_encoding R101, R102): bits 15-12. -/
def fieldOp (w : Word) : BitVec 4 := w.extractLsb' 12 4
/-- `X` (30_encoding R102): bits 11-8. -/
def fieldX (w : Word) : RegIdx := w.extractLsb' 8 4
/-- `Y` (30_encoding R102): bits 7-4. -/
def fieldY (w : Word) : RegIdx := w.extractLsb' 4 4
/-- `N` (30_encoding R102): bits 3-0. -/
def fieldN (w : Word) : BitVec 4 := w.extractLsb' 0 4
/-- `NN` (30_encoding R102): bits 7-0. -/
def fieldNN (w : Word) : Byte := w.extractLsb' 0 8
/-- `NNN` (30_encoding R102): bits 11-0. -/
def fieldNNN (w : Word) : Addr12 := w.extractLsb' 0 12

/-- Family 0x8, by the trailing nibble (30_encoding R105). -/
def decodeAlu (x y : RegIdx) (n : BitVec 4) : Decoded :=
  match n with
  | 0x0#4 => .instr (.ldReg x y)
  | 0x1#4 => .instr (.or x y)
  | 0x2#4 => .instr (.and x y)
  | 0x3#4 => .instr (.xor x y)
  | 0x4#4 => .instr (.addReg x y)
  | 0x5#4 => .instr (.sub x y)
  | 0x6#4 => .instr (.shr x y)
  | 0x7#4 => .instr (.subn x y)
  | 0xE#4 => .instr (.shl x y)
  | _ => .unknownOpcode

/-- Family 0xE, by the trailing byte (30_encoding R105). -/
def decodeKey (x : RegIdx) (nn : Byte) : Decoded :=
  match nn with
  | 0x9E#8 => .instr (.skp x)
  | 0xA1#8 => .instr (.sknp x)
  | _ => .unknownOpcode

/-- Family 0xF, by the trailing byte (30_encoding R105). -/
def decodeMisc (x : RegIdx) (nn : Byte) : Decoded :=
  match nn with
  | 0x07#8 => .instr (.ldVxDT x)
  | 0x0A#8 => .instr (.ldVxK x)
  | 0x15#8 => .instr (.ldDTVx x)
  | 0x18#8 => .instr (.ldSTVx x)
  | 0x1E#8 => .instr (.addIVx x)
  | 0x29#8 => .instr (.ldFVx x)
  | 0x33#8 => .instr (.ldBVx x)
  | 0x55#8 => .instr (.ldMemVx x)
  | 0x65#8 => .instr (.ldVxMem x)
  | _ => .unknownOpcode

/-- Family 0x0: 00E0 and 00EE are carved out of 0NNN (30_encoding R105, R107). -/
def decodeZero (nnn : Addr12) : Decoded :=
  match nnn with
  | 0x0E0#12 => .instr .cls
  | 0x0EE#12 => .instr .ret
  | _ => .instr (.sys nnn)

/-- The decoder of 30_encoding R105, family by family in its order. -/
def decode (w : Word) : Decoded :=
  let x := fieldX w
  let y := fieldY w
  let n := fieldN w
  let nn := fieldNN w
  let nnn := fieldNNN w
  match fieldOp w with
  | 0x0#4 => decodeZero nnn
  | 0x1#4 => .instr (.jp nnn)
  | 0x2#4 => .instr (.call nnn)
  | 0x3#4 => .instr (.seByte x nn)
  | 0x4#4 => .instr (.sneByte x nn)
  | 0x5#4 => if n = 0#4 then .instr (.seReg x y) else .unknownOpcode
  | 0x6#4 => .instr (.ldByte x nn)
  | 0x7#4 => .instr (.addByte x nn)
  | 0x8#4 => decodeAlu x y n
  | 0x9#4 => if n = 0#4 then .instr (.sneReg x y) else .unknownOpcode
  | 0xA#4 => .instr (.ldI nnn)
  | 0xB#4 => .instr (.jpV0 nnn)
  | 0xC#4 => .instr (.rnd x nn)
  | 0xD#4 => .instr (.drw x y n)
  | 0xE#4 => decodeKey x nn
  | _ => decodeMisc x nn

/-- The word two bytes of memory make, the byte at the lower address first: big-endian (20_memory R72). -/
def wordOfBytes (hi lo : Byte) : Word := hi ++ lo

/-- The two bytes of a word in memory order (20_memory R72). -/
def bytesOfWord (w : Word) : Byte × Byte := (w.extractLsb' 8 8, w.extractLsb' 0 8)

/-- Decoding an instruction from its bytes in memory: exactly two bytes are consumed (30_encoding R100). -/
def decodeBytes (hi lo : Byte) : Decoded := decode (wordOfBytes hi lo)

/-- Format `A` of 30_encoding R103: a family nibble and an address. -/
def formatA (op : BitVec 4) (nnn : Addr12) : Word := op ++ nnn
/-- Format `XI` (and `XS`) of 30_encoding R103: a family nibble, a register and a byte. -/
def formatXI (op : BitVec 4) (x : RegIdx) (nn : Byte) : Word := op ++ x ++ nn
/-- Format `XY` (and `XYN`) of 30_encoding R103: a family nibble, two registers and a nibble. -/
def formatXY (op : BitVec 4) (x y : RegIdx) (n : BitVec 4) : Word := op ++ x ++ y ++ n

/-- The encoder: the word of an instruction, from the patterns of 30_encoding R106. -/
def encode : Instr → Word
  | .sys nnn => formatA 0x0 nnn
  | .cls => 0x00E0
  | .ret => 0x00EE
  | .jp nnn => formatA 0x1 nnn
  | .call nnn => formatA 0x2 nnn
  | .seByte x nn => formatXI 0x3 x nn
  | .sneByte x nn => formatXI 0x4 x nn
  | .seReg x y => formatXY 0x5 x y 0x0
  | .ldByte x nn => formatXI 0x6 x nn
  | .addByte x nn => formatXI 0x7 x nn
  | .ldReg x y => formatXY 0x8 x y 0x0
  | .or x y => formatXY 0x8 x y 0x1
  | .and x y => formatXY 0x8 x y 0x2
  | .xor x y => formatXY 0x8 x y 0x3
  | .addReg x y => formatXY 0x8 x y 0x4
  | .sub x y => formatXY 0x8 x y 0x5
  | .shr x y => formatXY 0x8 x y 0x6
  | .subn x y => formatXY 0x8 x y 0x7
  | .shl x y => formatXY 0x8 x y 0xE
  | .sneReg x y => formatXY 0x9 x y 0x0
  | .ldI nnn => formatA 0xA nnn
  | .jpV0 nnn => formatA 0xB nnn
  | .rnd x nn => formatXI 0xC x nn
  | .drw x y n => formatXY 0xD x y n
  | .skp x => formatXI 0xE x 0x9E
  | .sknp x => formatXI 0xE x 0xA1
  | .ldVxDT x => formatXI 0xF x 0x07
  | .ldVxK x => formatXI 0xF x 0x0A
  | .ldDTVx x => formatXI 0xF x 0x15
  | .ldSTVx x => formatXI 0xF x 0x18
  | .addIVx x => formatXI 0xF x 0x1E
  | .ldFVx x => formatXI 0xF x 0x29
  | .ldBVx x => formatXI 0xF x 0x33
  | .ldMemVx x => formatXI 0xF x 0x55
  | .ldVxMem x => formatXI 0xF x 0x65

/-- The 16-bit word whose bits the opcode table numbers `w`, of which it gives `nbits`: every bit above them is 0. -/
def tableWord (nbits w : Nat) : Word := BitVec.ofNat 16 (w % 2 ^ nbits)

/-- What the decoder reads from the instruction whose table bits are `w`, laid out in memory order and read back. -/
def decodeTableWord (nbits w : Nat) : Option Instr :=
  match decodeBytes (bytesOfWord (tableWord nbits w)).1 (bytesOfWord (tableWord nbits w)).2 with
  | .instr i => some i
  | .unknownOpcode => none

end Sys2Proof
end

