-- ==== Sys2Proof/Config.lean ====
section
/-! DEFINITION. What an implementation fixes (the named parameters of 00_scope R7 to R9) and the free values: the keypad samples and random bytes that the outside supplies under no law (00_scope R17), as opaque constants that no proof can evaluate. -/

namespace Sys2Proof

/-- `SHIFT_SOURCE` (00_scope R7, 41_arithmetic R179): which register 8XY6 and 8XYE shift. -/
inductive ShiftSource where
  | vx
  | vy
deriving DecidableEq, Repr

/-- `SYS_POLICY` (00_scope R7, 49_legacy R391): what a 0NNN word does. -/
inductive SysPolicy where
  | unsupported
  | nop
deriving DecidableEq, Repr

/-- The implementation parameters that the spec leaves named (00_scope R7, R9; 92 D7). They are data of the state that no command changes, so the model runs under every value of them (notes/assumptions/4.md, 16.md). -/
structure Params where
  /-- `ADD_I_SETS_VF` (44_memory_index R262). -/
  addISetsVF : Bool
  /-- `SHIFT_SOURCE` (41_arithmetic R179). -/
  shiftSource : ShiftSource
  /-- `SYS_POLICY` (49_legacy R391). -/
  sysPolicy : SysPolicy
  /-- `FONT_BASE` (92 D7): any address that keeps the 80 font bytes in the reserved region 0x000 to 0x1FF (20_memory R76; notes/assumptions/16.md). -/
  fontBase : Fin 433
  /-- `FONT_DATA`, 16 glyphs of 5 bytes (30_encoding R130, R131). -/
  fontData : Vector Byte 80
deriving DecidableEq, Repr

/-- `ADD_I_SETS_VF` is OPEN and has no default (00_scope R8, 92 D20): a free value, which the reset state carries. DESIGN CHOICE, notes/assumptions/4.md; safe. -/
opaque Config.addISetsVF : Bool

/-- The keypad sample of a STEP the host has not scheduled: the n-th free draw (10_state R62). DESIGN CHOICE, notes/assumptions/1.md; safe. -/
opaque Config.freeKeys : Nat → BitVec 16

/-- The random byte when no seeded source has lined one up: the n-th free draw (10_state R63). DESIGN CHOICE, notes/assumptions/2.md; safe. -/
opaque Config.freeRnd : Nat → Byte

end Sys2Proof
end

