-- ==== Sys2Proof/Machine/Params.lean ====
section
/-! DEFINITION. The constants of the core (00_scope R7) and the values the spec decides for its parameters. -/

namespace Sys2Proof.Machine

/-- `MEM_SIZE` (00_scope R7, 20_memory R70). -/
def memSize : Nat := 4096
/-- `PROG_BASE` (00_scope R7, 70_reset R453). -/
def progBase : Nat := 0x200
/-- `MAX_PROG_LEN` (00_scope R7, 70_reset R450). -/
def maxProgLen : Nat := 3584
/-- `STACK_DEPTH` (00_scope R7, 10_state R39). -/
def stackDepth : Nat := 16
/-- `DISPLAY_W` (00_scope R7, 10_state R46). -/
def displayW : Nat := 64
/-- `DISPLAY_H` (00_scope R7, 10_state R46). -/
def displayH : Nat := 32
/-- The spec's `FONT_BASE` (00_scope R7, 92 D7). -/
def specFontBase : Fin 433 := 0x000

/-- The spec's `FONT_DATA`, the 80 bytes of 30_encoding R131 in address order, one glyph a line. -/
def specFontData : Vector Byte 80 :=
  #v[0xF0, 0x90, 0x90, 0x90, 0xF0,
   0x20, 0x60, 0x20, 0x20, 0x70,
   0xF0, 0x10, 0xF0, 0x80, 0xF0,
   0xF0, 0x10, 0xF0, 0x10, 0xF0,
   0x90, 0x90, 0xF0, 0x10, 0x10,
   0xF0, 0x80, 0xF0, 0x10, 0xF0,
   0xF0, 0x80, 0xF0, 0x90, 0xF0,
   0xF0, 0x10, 0x20, 0x40, 0x40,
   0xF0, 0x90, 0xF0, 0x90, 0xF0,
   0xF0, 0x90, 0xF0, 0x10, 0xF0,
   0xF0, 0x90, 0xF0, 0x90, 0x90,
   0xE0, 0x90, 0xE0, 0x90, 0xE0,
   0xF0, 0x80, 0x80, 0x80, 0xF0,
   0xE0, 0x90, 0x90, 0x90, 0xE0,
   0xF0, 0x80, 0xF0, 0x80, 0xF0,
   0xF0, 0x80, 0xF0, 0x80, 0x80]

/-- The spec's parameter values (00_scope R7): `SHIFT_SOURCE = VX`, `SYS_POLICY = UNSUPPORTED`, `FONT_BASE` and `FONT_DATA` of 92 D7, and `ADD_I_SETS_VF` left open. -/
def specParams : Params :=
  { addISetsVF := Config.addISetsVF, shiftSource := .vx, sysPolicy := .unsupported,
    fontBase := specFontBase, fontData := specFontData }

end Sys2Proof.Machine
end

