-- ==== Sys2Proof/Machine/Memory.lean ====
section
/-! DEFINITION. MEM, the one flat space of 4096 bytes (20_memory R70, R71), as the list of the bytes that differ from the reset contents, in one canonical form. -/

namespace Sys2Proof.Machine

/-- MEM as (address, byte) pairs: addresses strictly rising, no entry equal to what an unlisted address reads as (notes/assumptions/9.md). -/
abbrev Memory := List Host.Cell

/-- What an unlisted address reads as: the contents INIT of an empty image leaves (10_state R48, 70_reset R450): the spec's font at the spec's `FONT_BASE`, every other byte 0x00. -/
def Memory.background (a : Nat) : Byte :=
  if specFontBase.val ≤ a then specFontData[a - specFontBase.val]?.getD 0x00 else 0x00

/-- `MemRead(a, 1)` (00_scope R14). The caller has checked its range (20_memory R74). -/
def Memory.read : Memory → Nat → Byte
  | [], a => Memory.background a
  | c :: m, a => if c.1 = a then c.2 else Memory.read m a

/-- `c` in front of `m`, unless it holds what an unlisted address reads as. -/
def Memory.consCell (a : Nat) (b : Byte) (m : Memory) : Memory :=
  if b = Memory.background a then m else (a, b) :: m

/-- `MemWrite(a, 1, b)` (00_scope R14), keeping the canonical form. The caller has checked its range (20_memory R74). -/
def Memory.write : Memory → Nat → Byte → Memory
  | [], a, b => Memory.consCell a b []
  | c :: m, a, b =>
    if a < c.1 then Memory.consCell a b (c :: m)
    else if c.1 = a then Memory.consCell a b m
    else c :: Memory.write m a b

/-- The bytes of `image` at consecutive ascending addresses from `a` (20_memory R71, 70_reset R450). -/
def Memory.load : List Byte → Nat → Memory → Memory
  | [], _, m => m
  | b :: image, a, m => Memory.load image (a + 1) (Memory.write m a b)

/-- The canonical form of MEM: strictly rising addresses inside the 4096-byte space, no byte equal to the reset contents. -/
abbrev Memory.wf (m : Memory) : Prop :=
  m.Pairwise (fun c d => c.1 < d.1) ∧ ∀ c ∈ m, c.1 < memSize ∧ c.2 ≠ Memory.background c.1

/-- A range of `len` bytes from `base` lies inside MEM; an empty range always does (20_memory R74, R75). Sums are mathematical. -/
def rangeInMemory (base len : Nat) : Bool :=
  len == 0 || decide (base + len ≤ memSize)

end Sys2Proof.Machine
end

