-- ==== Sys2Proof/Machine/Display.lean ====
section
/-! DEFINITION. DISP, the 64 x 32 grid of one-bit pixels (10_state R46), and the sprite drawing of DXYN on it (46_display R310 to R314). -/

namespace Sys2Proof.Machine

/-- DISP in the layout of the display read port: pixel (x, y) is bit `y * 64 + x` (10_state R64). -/
abbrev Display := BitVec 2048

/-- The place of pixel (x, y) on the read port (10_state R64). -/
def pixelIndex (px py : Nat) : Nat := py * displayW + px

/-- `DISP[px][py]`. -/
def Display.pixel (d : Display) (px py : Nat) : Bool := d.getLsbD (pixelIndex px py)

/-- `DISP[px][py] <- DISP[px][py] ^ 1` (46_display R312). -/
def Display.toggle (d : Display) (px py : Nat) : Display := d ^^^ BitVec.twoPow 2048 (pixelIndex px py)

/-- What DXYN works on: the display, and `c`, the collision seen so far (46_display R312). -/
structure Canvas where
  disp : Display
  hit : Bool
deriving DecidableEq, Repr

/-- One set sprite bit at (px, py): a pixel that was on counts as a collision, and the pixel toggles (46_display R312). -/
def plotPixel (c : Canvas) (px py : Nat) : Canvas :=
  { disp := c.disp.toggle px py, hit := c.hit || c.disp.pixel px py }

/-- One row byte from column `x0` in row `y`, bit 7 leftmost, each pixel wrapping on its own (46_display R310). -/
def drawRow (b : Byte) (x0 y : Nat) (c : Canvas) : Canvas :=
  (List.range 8).foldl
    (fun c k => if b.getLsbD (7 - k) then plotPixel c ((x0 + k) % displayW) (y % displayH) else c) c

/-- The rows of a sprite of height `n` at memory address `base`, in order (46_display R312). -/
def drawSprite (m : Memory) (base n x0 y0 : Nat) (d : Display) : Canvas :=
  (List.range n).foldl (fun c r => drawRow (m.read (base + r)) x0 (y0 + r) c) { disp := d, hit := false }

end Sys2Proof.Machine
end

