-- ==== Sys2Proof/Machine/Errors.lean ====
section
/-! DEFINITION. The errors of the core and the codes the fault latch holds for them (60_exceptions R400). -/

namespace Sys2Proof.Machine

/-- The errors of 60_exceptions R400. `programTooLarge` is INIT's alone; a step raises one of the others. -/
inductive CoreError where
  | outOfBounds
  | unknownOpcode
  | stackOverflow
  | stackUnderflow
  | programTooLarge
  | unsupported
deriving DecidableEq, Repr

/-- The numeric codes of 60_exceptions R400, as held in ERR. -/
def CoreError.code : CoreError → BitVec 3
  | .outOfBounds => 1
  | .unknownOpcode => 2
  | .stackOverflow => 3
  | .stackUnderflow => 4
  | .programTooLarge => 5
  | .unsupported => 6

end Sys2Proof.Machine
end

