-- ==== Sys2Proof/Machine/State.lean ====
section
/-! DEFINITION. The state of the machine as plain data: the eleven elements of 10_state R30, and the model's own fields for the host's side (10_state R60 to R63) and the parameters (00_scope R7). -/

namespace Sys2Proof.Machine

/-- A command of the host (10_state R60). A STEP carries the keypad sample it takes (10_state R62, 40_step_cycle R148). -/
inductive Command where
  | step (keys : BitVec 16)
  | tick
  | init (image : List Byte)
deriving DecidableEq, Repr

/-- What the command port answered (10_state R61): nothing (a TICK, or no command yet), OK, or ERR(code). -/
inductive Response where
  | nothing
  | ok
  | error (code : BitVec 3)
deriving DecidableEq, Repr

/-- Why a step can stop. -/
inductive Fault where
  /-- Raised by CALL and RET in a state whose SP is outside 0..16, where the STACK entry they need does not exist (10_state R39, R49). Safe: no well-formed state raises it, and the spec gives such a state no meaning (notes/assumptions/7.md). -/
  | noStackEntry
deriving DecidableEq, Repr

/-- Why an instruction has no meaning. -/
inductive Refusal where
  /-- Raised only by an arm of exec that has no meaning yet; no arm is left so. Safe: the run stops. -/
  | notModelled (mnemonic : String)
deriving DecidableEq, Repr

/-- The machine. The first eleven fields are the core's state, 10_state R30; the rest are the model's own. -/
structure State where
  /-- MEM (20_memory R70). -/
  mem : Memory
  /-- V0 to VF (10_state R31). -/
  v : Vector Byte 16
  /-- I (10_state R38). -/
  i : Word
  /-- PC (10_state R35). -/
  pc : Word
  /-- STACK (10_state R39). -/
  stack : Vector Word 16
  /-- SP, legal 0 to 16 (10_state R39, R47). -/
  sp : BitVec 5
  /-- DT (10_state R42). -/
  dt : Byte
  /-- ST (10_state R43). -/
  st : Byte
  /-- DISP (10_state R46). -/
  disp : Display
  /-- ERR, the fault latch (10_state R44); the codes 5 and 7 are in notes/assumptions/13.md. -/
  err : BitVec 3
  /-- PREV_KEYS (10_state R45). -/
  prevKeys : BitVec 16
  /-- The parameters this machine is built with; no command changes them (notes/assumptions/4.md). -/
  params : Params
  /-- The host's commands not yet performed, oldest first; none listed means the host issues STEP (notes/assumptions/3.md). -/
  pending : List Command
  /-- How many keypad samples were drawn freely (notes/assumptions/1.md). -/
  keyDraws : Nat
  /-- The bytes a seeded random source has lined up, next first (notes/assumptions/2.md). -/
  randoms : List Byte
  /-- How many random bytes were drawn freely (notes/assumptions/2.md). -/
  rndDraws : Nat
  /-- The response of the last command (notes/assumptions/5.md). -/
  response : Response
deriving DecidableEq, Repr

/-- Power-on: the state INIT of an empty image leaves (70_reset R452, 10_state R48). The model's own fields start empty (notes/assumptions/1.md to 5.md). -/
def State.reset : State where
  mem := []
  v := Vector.replicate 16 0
  i := 0
  pc := 0x200
  stack := Vector.replicate 16 0
  sp := 0
  dt := 0
  st := 0
  disp := 0
  err := 0
  prevKeys := 0
  params := specParams
  pending := []
  keyDraws := 0
  randoms := []
  rndDraws := 0
  response := .nothing

end Sys2Proof.Machine
end

