-- ==== Sys2Proof/Machine/Ops.lean ====
section
/-! DEFINITION. The named operations over the state: registers, program counter, memory, call stack, inputs, fetch, and taking an error. -/

namespace Sys2Proof.Machine

/-- What a meaning answers. -/
abbrev StepResult := Host.Outcome State Fault Refusal

/-- The index of VF (10_state R32). -/
def vfIdx : RegIdx := 0xF

/-- `V[x]` (00_scope R12). No register is hardwired (10_state R31). -/
def State.readV (s : State) (x : RegIdx) : Byte := s.v[x.toNat]'x.isLt

/-- `V[x] <- b` (00_scope R12). -/
def State.writeV (s : State) (x : RegIdx) (b : Byte) : State :=
  { s with v := s.v.set x.toNat b x.isLt }

/-- `pc <- t`. -/
def State.jumpTo (s : State) (t : Word) : State := { s with pc := t }

/-- The default next PC, `P + 2` (40_step_cycle R149), in 16 bits; no fetched PC is high enough to wrap (notes/assumptions/11.md). -/
def State.advance (s : State) : State := s.jumpTo (s.pc + 2)

/-- The next PC of a skip: `P + 4` when the condition holds, else `P + 2` (42_skip R210). -/
def State.skipIf (s : State) (c : Bool) : State := s.jumpTo (if c then s.pc + 4 else s.pc + 2)

/-- `I <- a`. -/
def State.setI (s : State) (a : Word) : State := { s with i := a }

/-- Bytes stored at consecutive ascending addresses (20_memory R71); the caller has checked the range (20_memory R74). -/
def State.storeBytes (s : State) (a : Nat) (bytes : List Byte) : State :=
  { s with mem := Memory.load bytes a s.mem }

/-- V0, V1, ... loaded from consecutive addresses from `a`, `n` registers (44_memory_index R266). -/
def State.loadRegs (s : State) (a n : Nat) : State :=
  (List.range n).foldl (fun t k => t.writeV (BitVec.ofNat 4 k) (s.mem.read (a + k))) s

/-- Taking an error (60_exceptions R410, R412; 40_step_cycle R147): ERR takes the code, and nothing else changes; PC stays on the failing instruction. There is no return from an error (60_exceptions R414). -/
def State.raise (s : State) (e : CoreError) : State := { s with err := e.code }

/-- The outcome of an instruction that raises `e`: the error is taken, which is a next state. -/
def raiseError (s : State) (e : CoreError) : StepResult := .next (s.raise e)

/-- The push of CALL: `STACK[SP] <- ret; SP <- SP + 1` (43_jump_call_return R232); none where no such entry exists. -/
def State.pushReturn (s : State) (ret : Word) : Option State :=
  if h : s.sp.toNat < 16 then
    some { s with stack := s.stack.set s.sp.toNat ret h, sp := s.sp + 1 }
  else none

/-- The pop of RET: `SP <- SP - 1; pc <- STACK[SP]`, the entry left in place (43_jump_call_return R233); none where no such entry exists. -/
def State.popReturn (s : State) : Option State :=
  if h : (s.sp - 1).toNat < 16 then
    some { s with sp := s.sp - 1, pc := s.stack[(s.sp - 1).toNat]'h }
  else none

/-- `keys`, the keypad sample of the current STEP (10_state R62): the one the host's command carries, else a free draw (notes/assumptions/1.md). -/
def State.keysIn (s : State) : BitVec 16 :=
  match s.pending with
  | .step keys :: _ => keys
  | _ => Config.freeKeys s.keyDraws

/-- `rnd`, the random byte of the current STEP (10_state R63): the next one the source has lined up, else a free draw (notes/assumptions/2.md). -/
def State.rndIn (s : State) : Byte :=
  match s.randoms with
  | b :: _ => b
  | [] => Config.freeRnd s.rndDraws

/-- One random byte is consumed (45_random R300). -/
def State.takeRnd (s : State) : State :=
  match s.randoms with
  | _ :: rest => { s with randoms := rest }
  | [] => { s with rndDraws := s.rndDraws + 1 }

/-- FETCH (40_step_cycle R142, R143): the word at PC, big-endian; none when PC + 1 lies outside memory. -/
def State.fetch (s : State) : Option Word :=
  if rangeInMemory s.pc.toNat 2 then
    some (wordOfBytes (s.mem.read s.pc.toNat) (s.mem.read (s.pc.toNat + 1)))
  else none

/-- The command is a STEP (10_state R60). -/
def Command.isStep : Command → Bool
  | .step _ => true
  | .tick => false
  | .init _ => false

/-- The next command the core performs is a STEP: the host has listed one, or has listed nothing (notes/assumptions/3.md). -/
def State.stepNext (s : State) : Bool := (s.pending.head?.map Command.isStep).getD true

/-- The keypad sample that the next STEP will take: the one the first listed STEP carries, with any TICK or INIT listed before it, and the next free draw where no STEP is listed (TICK and INIT make no draw). DESIGN CHOICE, notes/assumptions/14.md. -/
def State.nextSample (s : State) : BitVec 16 :=
  match s.pending.find? Command.isStep with
  | some (.step keys) => keys
  | _ => Config.freeKeys s.keyDraws

/-- The host's command is done with. -/
def State.dropCommand (s : State) : State := { s with pending := s.pending.tail }

/-- The STEP command is done with, and so is the keypad sample it took: the listed one, or one free draw (notes/assumptions/1.md). -/
def State.consumeStep (s : State) : State :=
  match s.pending with
  | _ :: rest => { s with pending := rest }
  | [] => { s with keyDraws := s.keyDraws + 1 }

/-- The command port answers (10_state R61). -/
def State.respond (s : State) (r : Response) : State := { s with response := r }

/-- Where a word can be placed so that the next fetch reads it: at PC, or at 0x200 when PC is outside memory. -/
def State.placeAddress (s : State) : Word := if rangeInMemory s.pc.toNat 2 then s.pc else 0x200

/-- The state whose next step is a STEP that fetches `w`: the word stored at PC, no error latched, and no other command listed before the STEP (notes/assumptions/10.md). -/
def State.placeWord (s : State) (w : Word) : State :=
  { s with
    mem := Memory.load [(bytesOfWord w).1, (bytesOfWord w).2] s.placeAddress.toNat s.mem
    pc := s.placeAddress
    err := 0
    pending := s.pending.dropWhile (fun c => !c.isStep) }

end Sys2Proof.Machine
end

