-- ==== Sys2Proof/Machine/Flags.lean ====
section
/-! DEFINITION. Every flag computation (10_state R33, 41_arithmetic R180): each from the operands before the instruction (10_state R34). DXYN's collision is computed with the drawing, in Display.lean. -/

namespace Sys2Proof.Machine

/-- A flag as VF holds it. -/
def flagByte (f : Bool) : Byte := if f then 1 else 0

/-- The carry of 8XY4 (41_arithmetic R181). -/
def carryFlag (a b : Byte) : Bool := 255 < a.toNat + b.toNat

/-- The no-borrow flag of `a - b` (41_arithmetic R182, R184): 1 when `a >= b`. -/
def noBorrowFlag (a b : Byte) : Bool := b.toNat ≤ a.toNat

/-- The bit 8XY6 shifts out (41_arithmetic R183). -/
def shiftedOutRight (src : Byte) : Bool := src.getLsbD 0

/-- The bit 8XYE shifts out (41_arithmetic R185). -/
def shiftedOutLeft (src : Byte) : Bool := src.getLsbD 7

/-- The flag of FX1E under `ADD_I_SETS_VF`: the sum leaves the 4096-byte space (44_memory_index R262, 92 D20). -/
def indexOverflowFlag (sum : Nat) : Bool := 0xFFF < sum

/-- `V[F] <- flag`. -/
def State.writeFlag (s : State) (f : Bool) : State := s.writeV vfIdx (flagByte f)

/-- The result first, the flag last, so VF holds the flag when X = F (41_arithmetic R171). -/
def State.writeResultFlag (s : State) (x : RegIdx) (r : Byte) (f : Bool) : State :=
  (s.writeV x r).writeFlag f

end Sys2Proof.Machine
end

