-- ==== Sys2Proof/Machine/Operands.lean ====
section
/-! DEFINITION. Every operand form: addresses, jump targets, the shift operand, font addresses, keys, BCD digits and register blocks. Every field is unsigned and zero-extended (30_encoding R104). -/

namespace Sys2Proof.Machine

/-- NNN zero-extended to 16 bits (30_encoding R104). -/
def addrOperand (nnn : Addr12) : Word := nnn.zeroExtend 16

/-- The target of BNNN: `zext_16(NNN) + V[0]`, not reduced mod 4096 (43_jump_call_return R235). -/
def offsetTarget (nnn : Addr12) (v0 : Byte) : Word := BitVec.ofNat 16 (nnn.toNat + v0.toNat)

/-- `src` of 8XY6 and 8XYE (41_arithmetic R179). -/
def State.shiftOperand (s : State) (x y : RegIdx) : Byte :=
  match s.params.shiftSource with
  | .vx => s.readV x
  | .vy => s.readV y

/-- `FONT_BASE + 5 * V[x][3:0]` (44_memory_index R263). -/
def State.fontAddress (s : State) (b : Byte) : Word := BitVec.ofNat 16 (s.params.fontBase.val + 5 * (b.toNat % 16))

/-- The mathematical sum `I + V[x]` of FX1E (44_memory_index R262). -/
def State.indexSum (s : State) (x : RegIdx) : Nat := s.i.toNat + (s.readV x).toNat

/-- `pressed(v)` (48_keypad R361): a value of 0x10 or more names no key. -/
def keyPressed (keys : BitVec 16) (v : Byte) : Bool := v.toNat ≤ 0x0F && keys.getLsbD v.toNat

/-- The keys of a sample that were unpressed in the sample before (48_keypad R364). -/
def newPresses (keys prev : BitVec 16) : BitVec 16 := keys &&& ~~~prev

/-- `new` of FX0A: the keys that went from unpressed to pressed (48_keypad R364). -/
def State.newKeys (s : State) : BitVec 16 := newPresses s.keysIn s.prevKeys

/-- The least index of a set bit (48_keypad R364); none where no bit is set. -/
def lowestKey (keys : BitVec 16) : Option Nat := (List.range 16).find? (fun k => keys.getLsbD k)

/-- The BCD digits of a byte, hundreds first (44_memory_index R264). -/
def bcdDigits (b : Byte) : List Byte :=
  [BitVec.ofNat 8 (b.toNat / 100), BitVec.ofNat 8 (b.toNat / 10 % 10), BitVec.ofNat 8 (b.toNat % 10)]

/-- How many registers V0 to VX inclusive are (44_memory_index R265). -/
def blockLength (x : RegIdx) : Nat := x.toNat + 1

/-- V0 to VX inclusive, in order (44_memory_index R265). -/
def State.regBlock (s : State) (x : RegIdx) : List Byte :=
  (List.range (blockLength x)).map (fun k => s.readV (BitVec.ofNat 4 k))

end Sys2Proof.Machine
end

