-- ==== Sys2Proof/Machine/Arithmetic.lean ====
section
/-! DEFINITION. The register and ALU instructions (41_arithmetic): 6XNN, 7XNN, 8XY0 to 8XY7, 8XYE. -/

namespace Sys2Proof.Machine

/-- 6XNN, `LD Vx, NN` (R172). -/
def execLdByte (x : RegIdx) (nn : Byte) (s : State) : StepResult :=
  .next (s.writeV x nn).advance

/-- 7XNN, `ADD Vx, NN`: no flag (R173). -/
def execAddByte (x : RegIdx) (nn : Byte) (s : State) : StepResult :=
  .next (s.writeV x (s.readV x + nn)).advance

/-- 8XY0, `LD Vx, Vy` (R174). -/
def execLdReg (x y : RegIdx) (s : State) : StepResult :=
  .next (s.writeV x (s.readV y)).advance

/-- 8XY1, `OR Vx, Vy`: no flag (R175). -/
def execOr (x y : RegIdx) (s : State) : StepResult :=
  .next (s.writeV x (s.readV x ||| s.readV y)).advance

/-- 8XY2, `AND Vx, Vy`: no flag (R176). -/
def execAnd (x y : RegIdx) (s : State) : StepResult :=
  .next (s.writeV x (s.readV x &&& s.readV y)).advance

/-- 8XY3, `XOR Vx, Vy`: no flag (R177). -/
def execXor (x y : RegIdx) (s : State) : StepResult :=
  .next (s.writeV x (s.readV x ^^^ s.readV y)).advance

/-- 8XY4, `ADD Vx, Vy`: carry into VF (R181). -/
def execAddReg (x y : RegIdx) (s : State) : StepResult :=
  let a := s.readV x
  let b := s.readV y
  .next (s.writeResultFlag x (a + b) (carryFlag a b)).advance

/-- 8XY5, `SUB Vx, Vy`: no-borrow into VF (R182). -/
def execSub (x y : RegIdx) (s : State) : StepResult :=
  let a := s.readV x
  let b := s.readV y
  .next (s.writeResultFlag x (a - b) (noBorrowFlag a b)).advance

/-- 8XY6, `SHR Vx`: the bit shifted out into VF (R183). -/
def execShr (x y : RegIdx) (s : State) : StepResult :=
  let src := s.shiftOperand x y
  .next (s.writeResultFlag x (src >>> 1) (shiftedOutRight src)).advance

/-- 8XY7, `SUBN Vx, Vy`: Vy minus Vx, no-borrow into VF (R184). -/
def execSubn (x y : RegIdx) (s : State) : StepResult :=
  let a := s.readV x
  let b := s.readV y
  .next (s.writeResultFlag x (b - a) (noBorrowFlag b a)).advance

/-- 8XYE, `SHL Vx`: the bit shifted out into VF (R185). -/
def execShl (x y : RegIdx) (s : State) : StepResult :=
  let src := s.shiftOperand x y
  .next (s.writeResultFlag x (src <<< 1) (shiftedOutLeft src)).advance

end Sys2Proof.Machine
end

