-- ==== Sys2Proof/Machine/Control.lean ====
section
/-! DEFINITION. Jump, call and return (43_jump_call_return): 1NNN, 2NNN, 00EE, BNNN. Targets are not checked here; a bad one faults at the next fetch (R230). -/

namespace Sys2Proof.Machine

/-- 1NNN, `JP NNN` (R231). -/
def execJp (nnn : Addr12) (s : State) : StepResult :=
  .next (s.jumpTo (addrOperand nnn))

/-- 2NNN, `CALL NNN` (R232). A state whose SP is above 16 has no entry to write (notes/assumptions/7.md). -/
def execCall (nnn : Addr12) (s : State) : StepResult :=
  if s.sp = 16 then raiseError s .stackOverflow
  else match s.pushReturn (s.pc + 2) with
    | some t => .next (t.jumpTo (addrOperand nnn))
    | none => .fault .noStackEntry

/-- 00EE, `RET` (R233). A state whose SP is above 16 has no entry to read (notes/assumptions/7.md). -/
def execRet (s : State) : StepResult :=
  if s.sp = 0 then raiseError s .stackUnderflow
  else match s.popReturn with
    | some t => .next t
    | none => .fault .noStackEntry

/-- BNNN, `JP V0, NNN` (R235). -/
def execJpV0 (nnn : Addr12) (s : State) : StepResult :=
  .next (s.jumpTo (offsetTarget nnn (s.readV 0)))

end Sys2Proof.Machine
end

