-- ==== Sys2Proof/Machine/Draw.lean ====
section
/-! DEFINITION. The display instructions (46_display): 00E0, DXYN. -/

namespace Sys2Proof.Machine

/-- `DISP <- d`. -/
def State.setDisp (s : State) (d : Display) : State := { s with disp := d }

/-- 00E0, `CLS` (R311). -/
def execCls (s : State) : StepResult :=
  .next (s.setDisp 0).advance

/-- What drawing the sprite at I does to DISP, at column V[x] and row V[y] (R312). -/
def State.sprite (s : State) (x y : RegIdx) (n : BitVec 4) : Canvas :=
  drawSprite s.mem s.i.toNat n.toNat (s.readV x).toNat (s.readV y).toNat s.disp

/-- DXYN, `DRW Vx, Vy, N` (R312); VF takes the collision (R313). -/
def execDrw (x y : RegIdx) (n : BitVec 4) (s : State) : StepResult :=
  if rangeInMemory s.i.toNat n.toNat then
    .next ((s.setDisp (s.sprite x y n).disp).writeFlag (s.sprite x y n).hit).advance
  else raiseError s .outOfBounds

end Sys2Proof.Machine
end

