-- ==== Sys2Proof/Machine/Index.lean ====
section
/-! DEFINITION. Index register and memory instructions (44_memory_index): ANNN, FX1E, FX29, FX33, FX55, FX65. No access changes I (R260); ranges are checked before the first access (20_memory R74, R75). -/

namespace Sys2Proof.Machine

/-- ANNN, `LD I, NNN` (R261). -/
def execLdI (nnn : Addr12) (s : State) : StepResult :=
  .next (s.setI (addrOperand nnn)).advance

/-- `V[F] <- flag` only under `ADD_I_SETS_VF`; else VF keeps its value (R262). -/
def State.writeIndexFlag (s : State) (sum : Nat) : State :=
  s.writeV vfIdx (if s.params.addISetsVF then flagByte (indexOverflowFlag sum) else s.readV vfIdx)

/-- FX1E, `ADD I, Vx` (R262). -/
def execAddIVx (x : RegIdx) (s : State) : StepResult :=
  let sum := s.indexSum x
  .next ((s.setI (BitVec.ofNat 16 sum)).writeIndexFlag sum).advance

/-- FX29, `LD F, Vx` (R263). -/
def execLdFVx (x : RegIdx) (s : State) : StepResult :=
  .next (s.setI (s.fontAddress (s.readV x))).advance

/-- FX33, `LD B, Vx` (R264). -/
def execLdBVx (x : RegIdx) (s : State) : StepResult :=
  if rangeInMemory s.i.toNat 3 then
    .next (s.storeBytes s.i.toNat (bcdDigits (s.readV x))).advance
  else raiseError s .outOfBounds

/-- FX55, `LD [I], Vx` (R265). -/
def execLdMemVx (x : RegIdx) (s : State) : StepResult :=
  if rangeInMemory s.i.toNat (blockLength x) then
    .next (s.storeBytes s.i.toNat (s.regBlock x)).advance
  else raiseError s .outOfBounds

/-- FX65, `LD Vx, [I]` (R266). -/
def execLdVxMem (x : RegIdx) (s : State) : StepResult :=
  if rangeInMemory s.i.toNat (blockLength x) then
    .next (s.loadRegs s.i.toNat (blockLength x)).advance
  else raiseError s .outOfBounds

end Sys2Proof.Machine
end

