-- ==== Sys2Proof/Machine/Keypad.lean ====
section
/-! DEFINITION. The keypad instructions (48_keypad): EX9E, EXA1, FX0A. -/

namespace Sys2Proof.Machine

/-- EX9E, `SKP Vx` (R362). -/
def execSkp (x : RegIdx) (s : State) : StepResult :=
  .next (s.skipIf (keyPressed s.keysIn (s.readV x)))

/-- EXA1, `SKNP Vx` (R363). -/
def execSknp (x : RegIdx) (s : State) : StepResult :=
  .next (s.skipIf (!keyPressed s.keysIn (s.readV x)))

/-- The effect of FX0A (R364): with no new key PC stays, and the same instruction is presented again; else the lowest new key is stored. -/
def State.waitKey (s : State) (x : RegIdx) : State :=
  let key := lowestKey s.newKeys
  (s.writeV x (key.elim (s.readV x) (BitVec.ofNat 8))).jumpTo (key.elim s.pc (fun _ => s.pc + 2))

/-- FX0A, `LD Vx, K` (R364, R365). PREV_KEYS is set when the step commits (40_step_cycle R146). -/
def execLdVxK (x : RegIdx) (s : State) : StepResult :=
  .next (s.waitKey x)

end Sys2Proof.Machine
end

