-- ==== Sys2Proof/Machine/Legacy.lean ====
section
/-! DEFINITION. The legacy machine-code call (49_legacy): 0NNN. -/

namespace Sys2Proof.Machine

/-- 0NNN, `SYS NNN` (R391): the address is never used. -/
def execSys (_nnn : Addr12) (s : State) : StepResult :=
  match s.params.sysPolicy with
  | .unsupported => raiseError s .unsupported
  | .nop => .next s.advance

end Sys2Proof.Machine
end

