-- ==== Sys2Proof/Machine/Random.lean ====
section
/-! DEFINITION. The random instruction (45_random): CXNN. -/

namespace Sys2Proof.Machine

/-- CXNN, `RND Vx, NN` (R301): one random byte is consumed, whatever NN is (R300). -/
def execRnd (x : RegIdx) (nn : Byte) (s : State) : StepResult :=
  .next (s.takeRnd.writeV x (s.rndIn &&& nn)).advance

end Sys2Proof.Machine
end

