-- ==== Sys2Proof/Machine/Skip.lean ====
section
/-! DEFINITION. The conditional skips on registers (42_skip): 3XNN, 4XNN, 5XY0, 9XY0. -/

namespace Sys2Proof.Machine

/-- 3XNN, `SE Vx, NN` (R211). -/
def execSeByte (x : RegIdx) (nn : Byte) (s : State) : StepResult :=
  .next (s.skipIf (s.readV x == nn))

/-- 4XNN, `SNE Vx, NN` (R212). -/
def execSneByte (x : RegIdx) (nn : Byte) (s : State) : StepResult :=
  .next (s.skipIf (s.readV x != nn))

/-- 5XY0, `SE Vx, Vy` (R213). -/
def execSeReg (x y : RegIdx) (s : State) : StepResult :=
  .next (s.skipIf (s.readV x == s.readV y))

/-- 9XY0, `SNE Vx, Vy` (R214). -/
def execSneReg (x y : RegIdx) (s : State) : StepResult :=
  .next (s.skipIf (s.readV x != s.readV y))

end Sys2Proof.Machine
end

