-- ==== Sys2Proof/Machine/Timers.lean ====
section
/-! DEFINITION. The timer instructions FX07, FX15, FX18 and the timer tick (47_timers). -/

namespace Sys2Proof.Machine

/-- FX07, `LD Vx, DT` (R341). -/
def execLdVxDT (x : RegIdx) (s : State) : StepResult :=
  .next (s.writeV x s.dt).advance

/-- `DT <- b`. -/
def State.setDT (s : State) (b : Byte) : State := { s with dt := b }

/-- `ST <- b`. -/
def State.setST (s : State) (b : Byte) : State := { s with st := b }

/-- FX15, `LD DT, Vx` (R342). -/
def execLdDTVx (x : RegIdx) (s : State) : StepResult :=
  .next (s.setDT (s.readV x)).advance

/-- FX18, `LD ST, Vx` (R343). -/
def execLdSTVx (x : RegIdx) (s : State) : StepResult :=
  .next (s.setST (s.readV x)).advance

/-- One tick of one timer (47_timers R345, R347): down by one, held at 0. -/
def countDown (t : Byte) : Byte := if 0 < t.toNat then t - 1 else 0

/-- TICK (47_timers R345): both timers count down; no other state changes, and ERR is not read. -/
def State.tick (s : State) : State := (s.setDT (countDown s.dt)).setST (countDown s.st)

end Sys2Proof.Machine
end

