-- ==== Sys2Proof/Machine/Init.lean ====
section
/-! DEFINITION. INIT, the reset and load command (70_reset R450, R451). -/

namespace Sys2Proof.Machine

/-- MEM with every byte 0x00 (70_reset R450, its first loop): only the font bytes of the reset contents are not 0 already. -/
def Memory.zeroed : Memory := Memory.load (List.replicate 80 0x00) specFontBase.val []

/-- MEM with `FONT_DATA` at `FONT_BASE` and 0x00 elsewhere (70_reset R450, its second loop). -/
def Memory.withFont (p : Params) : Memory := Memory.load p.fontData.toList p.fontBase.val Memory.zeroed

/-- The core's state after INIT: every element of 10_state R30 at its reset value, the image at 0x200 (70_reset R450). The model's own fields stay (notes/assumptions/8.md). -/
def State.loadImage (s : State) (image : List Byte) : State :=
  { State.reset with
    mem := Memory.load image progBase (Memory.withFont s.params)
    params := s.params
    pending := s.pending
    keyDraws := s.keyDraws
    randoms := s.randoms
    rndDraws := s.rndDraws
    response := s.response }

/-- INIT (70_reset R450): the length is checked before any write, and a rejected INIT leaves the state, ERR included, as it was (60_exceptions R405). -/
def State.init (s : State) (image : List Byte) : State :=
  if maxProgLen < image.length then s.respond (.error CoreError.programTooLarge.code)
  else (s.loadImage image).respond .ok

/-- Power-on of a core built with the parameters `p`: the state INIT of an empty image leaves (70_reset R452). State.reset is the one of the spec's parameters. -/
def State.powerOn (p : Params) : State := State.loadImage { State.reset with params := p } []

end Sys2Proof.Machine
end

