-- ==== Sys2Proof/Machine/Transact.lean ====
section
/-! DEFINITION. One command of the host as one atomic transaction (10_state R60): the STEP state machine (40_step_cycle R140 to R148), TICK, INIT. -/

namespace Sys2Proof.Machine

/-- FETCH, DECODE and EXECUTE (40_step_cycle R142 to R145), the errors in the order of 60_exceptions R413. -/
def runInstruction (s : State) : StepResult :=
  match s.fetch with
  | none => raiseError s .outOfBounds
  | some w =>
    match decode w with
    | .unknownOpcode => raiseError s .unknownOpcode
    | .instr i => exec i s

/-- COMMIT (40_step_cycle R146): PREV_KEYS takes this step's sample, and the response is OK. -/
def State.commit (s : State) : State :=
  ({ s with prevKeys := s.keysIn }.respond .ok).consumeStep

/-- ABORT (40_step_cycle R147): ERR already holds the code; the response is ERR(code). -/
def State.abort (s : State) : State := (s.respond (.error s.err)).consumeStep

/-- COMMIT or ABORT: the instruction raised an error exactly if ERR is now set, since CHECK found it clear (notes/assumptions/6.md). -/
def State.finishStep (s : State) : State := if s.err = 0 then s.commit else s.abort

/-- CHECK with an error latched (40_step_cycle R141): nothing changes, and the latched code is the response; no sample is taken (notes/assumptions/12.md). -/
def State.latchedStep (s : State) : State := (s.respond (.error s.err)).dropCommand

/-- STEP (40_step_cycle R148). -/
def stepCommand (s : State) : StepResult :=
  if s.err = 0 then
    match runInstruction s with
    | .next t => .next t.finishStep
    | .fault f => .fault f
    | .refused r => .refused r
  else .next s.latchedStep

/-- The next command of the host: the first one listed, and STEP when none is (notes/assumptions/3.md). -/
def transact (s : State) : StepResult :=
  match s.pending with
  | .tick :: _ => .next (s.tick.respond .nothing).dropCommand
  | .init image :: _ => .next (s.init image).dropCommand
  | .step _ :: _ => stepCommand s
  | [] => stepCommand s

end Sys2Proof.Machine
end

