-- ==== Sys2Proof/Machine/Step.lean ====
section
/-! DEFINITION. The one step of the machine, and the host's way to place an instruction where the step fetches it. -/

namespace Sys2Proof.Machine

/-- One command of the host (10_state R60); no time passes in it (notes/assumptions/15.md). -/
def step (s : State) : Host.Outcome State Fault Refusal := transact s

/-- `s` with the instruction whose opcode-table bits are `w` where the next step fetches it (notes/assumptions/10.md). -/
def State.withFetchWord (s : State) (nbits w : Nat) : State := s.placeWord (tableWord nbits w)

end Sys2Proof.Machine
end

