-- ==== Sys2Proof/Machine/Ports.lean ====
section
/-! DEFINITION. What the outside can see between commands: the display read port, the sound output, the snapshot port (10_state R64 to R66), and the classes of a run's end (70_reset R462). -/

namespace Sys2Proof.Machine

/-- The display read port: pixel (x, y) is bit `y * 64 + x` (10_state R64). -/
def State.displayPort (s : State) : BitVec 2048 := s.disp

/-- The sound output (10_state R65, 47_timers R344). -/
def State.soundOn (s : State) : Bool := s.st != 0

/-- Every element of 10_state R30, as the snapshot port shows it (10_state R66). -/
structure Snapshot where
  mem : Memory
  v : Vector Byte 16
  i : Word
  pc : Word
  stack : Vector Word 16
  sp : BitVec 5
  dt : Byte
  st : Byte
  disp : Display
  err : BitVec 3
  prevKeys : BitVec 16
deriving DecidableEq, Repr

/-- The snapshot port (10_state R66). -/
def State.snapshot (s : State) : Snapshot :=
  { mem := s.mem, v := s.v, i := s.i, pc := s.pc, stack := s.stack, sp := s.sp, dt := s.dt, st := s.st,
    disp := s.disp, err := s.err, prevKeys := s.prevKeys }

/-- How a run stands where the host stops (70_reset R462). -/
inductive RunClass where
  | faulted
  | waiting
  | spinning
  | running
deriving DecidableEq, Repr

/-- The class the instruction at PC gives a state with no error latched (70_reset R462): `newKey` says whether a key press is new. -/
def classOf (pc : Word) (newKey : Bool) : Decoded → RunClass
  | .instr (.ldVxK _) => if newKey then .running else .waiting
  | .instr (.jp nnn) => if addrOperand nnn = pc then .spinning else .running
  | _ => .running

/-- The class of a state (70_reset R462). R462 and 48_keypad R365 say 'no key press is new' and name no sample: DESIGN CHOICE, the press is looked for in the sample that the next STEP will take, also where a TICK or an INIT comes before it, against PREV_KEYS as it is now (notes/assumptions/14.md). -/
def State.runClass (s : State) : RunClass :=
  if s.err = 0 then
    match s.fetch with
    | none => .running
    | some w => classOf s.pc (newPresses s.nextSample s.prevKeys != 0) (decode w)
  else .faulted

end Sys2Proof.Machine
end

