-- ==== Sys2Proof/Safety.lean ====
section
/-! DEFINITION. The terms in which claims are stated: well-formed states, safe steps, completion of an instruction, and frames (what stays unchanged). -/

namespace Sys2Proof.Machine

/-- A well-formed state: SP from 0 to 16 (10_state R49), and MEM in its canonical form (the model's own condition, notes/assumptions/9.md). -/
abbrev State.wf (s : State) : Prop := s.sp.toNat ≤ stackDepth ∧ s.mem.wf

/-- The bounds of 10_state R36: PC at most 0x10FE, and every return address held by the stack at most 0x1000. -/
def State.pcBounded (s : State) : Prop :=
  s.pc.toNat ≤ 0x10FE ∧ s.sp.toNat ≤ stackDepth ∧
    ∀ k : Fin 16, k.val < s.sp.toNat → (s.stack[k.val]).toNat ≤ 0x1000

/-- A safe step: the machine goes on, and no error is latched. -/
def State.stepsSafely (s : State) : Prop := ∃ t, step s = .next t ∧ t.err = 0

/-- The instruction completes from `s`, in a state of which `p` holds. -/
def CompletesWith (i : Instr) (s : State) (p : State → Prop) : Prop := ∃ t, exec i s = .next t ∧ p t

/-- The parts of the state besides the V registers and PC. -/
inductive Part where
  | memory
  | index
  | stack
  | delay
  | sound
  | display
  | errorLatch
  | keyHistory
  | params
  | commands
  | randomSource
deriving DecidableEq, Repr

/-- The part is the same in both states; MEM as every byte reads. -/
def State.same (s t : State) : Part → Prop
  | .memory => ∀ a, t.mem.read a = s.mem.read a
  | .index => t.i = s.i
  | .stack => t.stack = s.stack ∧ t.sp = s.sp
  | .delay => t.dt = s.dt
  | .sound => t.st = s.st
  | .display => t.disp = s.disp
  | .errorLatch => t.err = s.err
  | .keyHistory => t.prevKeys = s.prevKeys
  | .params => t.params = s.params
  | .commands => t.pending = s.pending ∧ t.keyDraws = s.keyDraws ∧ t.response = s.response
  | .randomSource => t.randoms = s.randoms ∧ t.rndDraws = s.rndDraws

/-- The frame: from `s` to `t` every V register outside `regs` and every part outside `parts` is unchanged. PC is not covered. -/
def State.keepsExcept (s t : State) (regs : List RegIdx) (parts : List Part) : Prop :=
  (∀ k, k ∉ regs → t.readV k = s.readV k) ∧ ∀ p, p ∉ parts → s.same t p

/-- Every byte of MEM outside the `len` bytes from `base` reads as before. -/
def State.keepsMemOutside (s t : State) (base len : Nat) : Prop :=
  ∀ a, (a < base ∨ base + len ≤ a) → t.mem.read a = s.mem.read a

/-- The outcome `e` is taken and nothing else changes (60_exceptions R410, R412). -/
def TakesError (i : Instr) (s : State) (e : CoreError) : Prop := exec i s = .next { s with err := e.code }

/-- `f` applied to the next state, where there is one. -/
def mapNext (f : State → State) : StepResult → StepResult
  | .next t => .next (f t)
  | .fault r => .fault r
  | .refused r => .refused r

/-- What an OK step leaves the snapshot port showing, from what the instruction left: PREV_KEYS takes the sample (40_step_cycle R146). -/
def State.committed (s : State) (keys : BitVec 16) : Snapshot := { s.snapshot with prevKeys := keys }

/-- The implicit VF writers of 10_state R33, in this state. -/
def writesFlag (i : Instr) (s : State) : Bool :=
  match i with
  | .addReg _ _ => true
  | .sub _ _ => true
  | .shr _ _ => true
  | .subn _ _ => true
  | .shl _ _ => true
  | .drw _ _ _ => true
  | .addIVx _ => s.params.addISetsVF
  | _ => false

/-- VF as an ordinary destination (10_state R33): 6FNN, 7FNN, 8FY0 to 8FY3, CFNN, FF07, FF0A, FF65. -/
def writesVFAsDestination (i : Instr) : Bool :=
  match i with
  | .ldByte x _ => x == vfIdx
  | .addByte x _ => x == vfIdx
  | .ldReg x _ => x == vfIdx
  | .or x _ => x == vfIdx
  | .and x _ => x == vfIdx
  | .xor x _ => x == vfIdx
  | .rnd x _ => x == vfIdx
  | .ldVxDT x => x == vfIdx
  | .ldVxK x => x == vfIdx
  | .ldVxMem x => x == vfIdx
  | _ => false

/-- Bit (c, r) of the sprite whose rows start at `base`: column offset c is bit 7 - c of row byte r (46_display R310). -/
def spriteBit (m : Memory) (base n : Nat) (r c : Nat) : Bool :=
  r < n && c < 8 && (m.read (base + r)).getLsbD (7 - c)

/-- Whether the sprite at column `x0` and row `y0` toggles pixel (px, py): the offsets counted with wraparound (46_display R310). -/
def spriteCovers (m : Memory) (base n x0 y0 : Nat) (px py : Nat) : Bool :=
  spriteBit m base n ((py + displayH - y0 % displayH) % displayH) ((px + displayW - x0 % displayW) % displayW)

/-- What the errors of a STEP depend on (60_exceptions R402): the two states agree on PC, MEM, I, SP and `SYS_POLICY`. -/
def State.agreeForErrors (s t : State) : Prop :=
  s.pc = t.pc ∧ (∀ a, s.mem.read a = t.mem.read a) ∧ s.i = t.i ∧ s.sp = t.sp ∧
    s.params.sysPolicy = t.params.sysPolicy

end Sys2Proof.Machine
end

