-- ==== Sys2Proof/Certificates/Slice0/Obligations.lean ====
section
/-! DEFINITION. The statements for the provers, from the numbered rules of spec/. `s` is any state of the model, reachable or not; a premise that rules states out names an invariant that is a statement of its own. -/

open Sys2Proof Sys2Proof.Machine

/-! ## Encoding (30_encoding) -/

/-- The rows of 95_test_vectors L1.1 and some of L2.1: words written in hexadecimal, with what each decodes to. -/
def Obligations.KnownWordsDecode : Prop :=
  decode 0x00E0 = .instr .cls ∧ decode 0x00EE = .instr .ret ∧ decode 0x0ABC = .instr (.sys 0xABC) ∧
  decode 0x1ABC = .instr (.jp 0xABC) ∧ decode 0x2ABC = .instr (.call 0xABC) ∧
  decode 0x3A5C = .instr (.seByte 0xA 0x5C) ∧ decode 0x4A5C = .instr (.sneByte 0xA 0x5C) ∧
  decode 0x5AB0 = .instr (.seReg 0xA 0xB) ∧ decode 0x6A5C = .instr (.ldByte 0xA 0x5C) ∧
  decode 0x7A5C = .instr (.addByte 0xA 0x5C) ∧ decode 0x8AB6 = .instr (.shr 0xA 0xB) ∧
  decode 0x8ABE = .instr (.shl 0xA 0xB) ∧ decode 0x9AB0 = .instr (.sneReg 0xA 0xB) ∧
  decode 0xAABC = .instr (.ldI 0xABC) ∧ decode 0xBABC = .instr (.jpV0 0xABC) ∧
  decode 0xCA5C = .instr (.rnd 0xA 0x5C) ∧ decode 0xDAB7 = .instr (.drw 0xA 0xB 0x7) ∧
  decode 0xEA9E = .instr (.skp 0xA) ∧ decode 0xEAA1 = .instr (.sknp 0xA) ∧
  decode 0xFA65 = .instr (.ldVxMem 0xA) ∧ decode 0x5121 = .unknownOpcode ∧ decode 0xF030 = .unknownOpcode

/-- Decoding an encoded well-formed instruction gives it back, for every instruction and every operand. -/
def Obligations.DecodeInvertsEncode : Prop :=
  ∀ i : Instr, i.wellFormed = true → decode (encode i) = .instr i

/-- 30_encoding R108, and R109, which the spec derives from it: encode(decode(w)) = w for every valid w, what is decoded is well-formed, and two valid words never decode alike. -/
def Obligations.EncodeInvertsDecode : Prop :=
  (∀ (w : Word) (i : Instr), decode w = .instr i → encode i = w ∧ i.wellFormed = true) ∧
  (∀ (w w' : Word) (i : Instr), decode w = .instr i → decode w' = .instr i → w = w')

/-- The table of 30_encoding R110: exactly these words are illegal. -/
def Obligations.IllegalWordsAreTheTable : Prop :=
  ∀ w : Word, decode w = .unknownOpcode ↔
    ((fieldOp w = 0x5 ∧ fieldN w ≠ 0) ∨
     (fieldOp w = 0x9 ∧ fieldN w ≠ 0) ∨
     (fieldOp w = 0x8 ∧ fieldN w ∈ [0x8#4, 0x9#4, 0xA#4, 0xB#4, 0xC#4, 0xD#4, 0xF#4]) ∨
     (fieldOp w = 0xE ∧ fieldNN w ∉ [0x9E#8, 0xA1#8]) ∨
     (fieldOp w = 0xF ∧ fieldNN w ∉
       [0x07#8, 0x0A#8, 0x15#8, 0x18#8, 0x1E#8, 0x29#8, 0x33#8, 0x55#8, 0x65#8]))

/-! ## Register and ALU instructions (41_arithmetic) -/

/-- 41_arithmetic R172, R174: 6XNN loads NN and 8XY0 copies V[y]; nothing else changes. -/
def Obligations.LoadRegister : Prop :=
  ∀ (s : State) (x y : RegIdx) (nn : Byte),
    (decode (0x6#4 ++ x ++ nn) = .instr (.ldByte x nn) ∧
      CompletesWith (.ldByte x nn) s fun t =>
        t.readV x = nn ∧ t.pc = s.pc + 2 ∧ s.keepsExcept t [x] []) ∧
    (decode (0x8#4 ++ x ++ y ++ 0x0#4) = .instr (.ldReg x y) ∧
      CompletesWith (.ldReg x y) s fun t =>
        t.readV x = s.readV y ∧ t.pc = s.pc + 2 ∧ s.keepsExcept t [x] [])

/-- 41_arithmetic R173: 7XNN adds mod 256 and writes no flag. -/
def Obligations.AddImmediateSetsNoFlag : Prop :=
  ∀ (s : State) (x : RegIdx) (nn : Byte),
    decode (0x7#4 ++ x ++ nn) = .instr (.addByte x nn) ∧
    CompletesWith (.addByte x nn) s fun t =>
      (t.readV x).toNat = ((s.readV x).toNat + nn.toNat) % 256 ∧
      t.pc = s.pc + 2 ∧ s.keepsExcept t [x] []

/-- 41_arithmetic R175, R176, R177: OR, AND and XOR bit by bit; VF changes only as the destination. -/
def Obligations.BitwiseSetsNoFlag : Prop :=
  ∀ (s : State) (x y : RegIdx),
    (decode (0x8#4 ++ x ++ y ++ 0x1#4) = .instr (.or x y) ∧
      CompletesWith (.or x y) s fun t =>
        (∀ k, k < 8 → (t.readV x).getLsbD k = ((s.readV x).getLsbD k || (s.readV y).getLsbD k)) ∧
        t.pc = s.pc + 2 ∧ s.keepsExcept t [x] []) ∧
    (decode (0x8#4 ++ x ++ y ++ 0x2#4) = .instr (.and x y) ∧
      CompletesWith (.and x y) s fun t =>
        (∀ k, k < 8 → (t.readV x).getLsbD k = ((s.readV x).getLsbD k && (s.readV y).getLsbD k)) ∧
        t.pc = s.pc + 2 ∧ s.keepsExcept t [x] []) ∧
    (decode (0x8#4 ++ x ++ y ++ 0x3#4) = .instr (.xor x y) ∧
      CompletesWith (.xor x y) s fun t =>
        (∀ k, k < 8 → (t.readV x).getLsbD k = ((s.readV x).getLsbD k != (s.readV y).getLsbD k)) ∧
        t.pc = s.pc + 2 ∧ s.keepsExcept t [x] [])

/-- 41_arithmetic R181 with the flag order of R171 (the spec's decision D16): the sum mod 256, the carry in VF, and the carry wins when X = F. -/
def Obligations.AddSetsCarry : Prop :=
  ∀ (s : State) (x y : RegIdx),
    decode (0x8#4 ++ x ++ y ++ 0x4#4) = .instr (.addReg x y) ∧
    CompletesWith (.addReg x y) s fun t =>
      (x ≠ 0xF → (t.readV x).toNat = ((s.readV x).toNat + (s.readV y).toNat) % 256) ∧
      t.readV 0xF = (if (s.readV x).toNat + (s.readV y).toNat > 255 then 1 else 0) ∧
      t.pc = s.pc + 2 ∧ s.keepsExcept t [x, 0xF] []

/-- 41_arithmetic R182: V[x] - V[y] mod 256, VF = 1 exactly when there is no borrow. -/
def Obligations.SubSetsNoBorrow : Prop :=
  ∀ (s : State) (x y : RegIdx),
    decode (0x8#4 ++ x ++ y ++ 0x5#4) = .instr (.sub x y) ∧
    CompletesWith (.sub x y) s fun t =>
      (x ≠ 0xF → ((t.readV x).toNat : Int) = ((s.readV x).toNat - (s.readV y).toNat : Int) % 256) ∧
      t.readV 0xF = (if (s.readV x).toNat ≥ (s.readV y).toNat then 1 else 0) ∧
      t.pc = s.pc + 2 ∧ s.keepsExcept t [x, 0xF] []

/-- 41_arithmetic R184: V[y] - V[x] mod 256, VF = 1 exactly when there is no borrow. -/
def Obligations.SubnSetsNoBorrow : Prop :=
  ∀ (s : State) (x y : RegIdx),
    decode (0x8#4 ++ x ++ y ++ 0x7#4) = .instr (.subn x y) ∧
    CompletesWith (.subn x y) s fun t =>
      (x ≠ 0xF → ((t.readV x).toNat : Int) = ((s.readV y).toNat - (s.readV x).toNat : Int) % 256) ∧
      t.readV 0xF = (if (s.readV y).toNat ≥ (s.readV x).toNat then 1 else 0) ∧
      t.pc = s.pc + 2 ∧ s.keepsExcept t [x, 0xF] []

/-- 41_arithmetic R183 with R179: half of the source, its bit 0 in VF; the source is V[x] or V[y] by `SHIFT_SOURCE`. -/
def Obligations.ShrShiftsBitOut : Prop :=
  ∀ (s : State) (x y : RegIdx),
    decode (0x8#4 ++ x ++ y ++ 0x6#4) = .instr (.shr x y) ∧
    CompletesWith (.shr x y) s fun t =>
      let src := if s.params.shiftSource = .vx then s.readV x else s.readV y
      (x ≠ 0xF → (t.readV x).toNat = src.toNat / 2) ∧
      (t.readV 0xF).toNat = src.toNat % 2 ∧
      t.pc = s.pc + 2 ∧ s.keepsExcept t [x, 0xF] []

/-- 41_arithmetic R185 with R179: twice the source mod 256, its bit 7 in VF. -/
def Obligations.ShlShiftsBitOut : Prop :=
  ∀ (s : State) (x y : RegIdx),
    decode (0x8#4 ++ x ++ y ++ 0xE#4) = .instr (.shl x y) ∧
    CompletesWith (.shl x y) s fun t =>
      let src := if s.params.shiftSource = .vx then s.readV x else s.readV y
      (x ≠ 0xF → (t.readV x).toNat = 2 * src.toNat % 256) ∧
      (t.readV 0xF).toNat = src.toNat / 128 ∧
      t.pc = s.pc + 2 ∧ s.keepsExcept t [x, 0xF] []

/-! ## Conditional skips (42_skip) -/

/-- 42_skip R211, R212: 3XNN and 4XNN skip on equal and on not equal, and change only PC. -/
def Obligations.SkipOnByte : Prop :=
  ∀ (s : State) (x : RegIdx) (nn : Byte),
    (decode (0x3#4 ++ x ++ nn) = .instr (.seByte x nn) ∧
      CompletesWith (.seByte x nn) s fun t =>
        t.pc = (if s.readV x = nn then s.pc + 4 else s.pc + 2) ∧ s.keepsExcept t [] []) ∧
    (decode (0x4#4 ++ x ++ nn) = .instr (.sneByte x nn) ∧
      CompletesWith (.sneByte x nn) s fun t =>
        t.pc = (if s.readV x ≠ nn then s.pc + 4 else s.pc + 2) ∧ s.keepsExcept t [] [])

/-- 42_skip R213, R214: 5XY0 and 9XY0 skip on equal and on not equal, and change only PC; n ≠ 0 is no instruction. -/
def Obligations.SkipOnRegister : Prop :=
  ∀ (s : State) (x y : RegIdx),
    (decode (0x5#4 ++ x ++ y ++ 0x0#4) = .instr (.seReg x y) ∧
      (∀ n : BitVec 4, n ≠ 0 → decode (0x5#4 ++ x ++ y ++ n) = .unknownOpcode) ∧
      CompletesWith (.seReg x y) s fun t =>
        t.pc = (if s.readV x = s.readV y then s.pc + 4 else s.pc + 2) ∧ s.keepsExcept t [] []) ∧
    (decode (0x9#4 ++ x ++ y ++ 0x0#4) = .instr (.sneReg x y) ∧
      (∀ n : BitVec 4, n ≠ 0 → decode (0x9#4 ++ x ++ y ++ n) = .unknownOpcode) ∧
      CompletesWith (.sneReg x y) s fun t =>
        t.pc = (if s.readV x ≠ s.readV y then s.pc + 4 else s.pc + 2) ∧ s.keepsExcept t [] [])

/-! ## Jump, call, return (43_jump_call_return) -/

/-- 43_jump_call_return R231: 1NNN sets PC to NNN, and changes nothing else. -/
def Obligations.JumpIsAbsolute : Prop :=
  ∀ (s : State) (nnn : Addr12),
    decode (0x1#4 ++ nnn) = .instr (.jp nnn) ∧
    CompletesWith (.jp nnn) s fun t => t.pc.toNat = nnn.toNat ∧ s.keepsExcept t [] []

/-- 43_jump_call_return R235: BNNN sets PC to NNN + V0, not reduced mod 4096. -/
def Obligations.JumpWithOffset : Prop :=
  ∀ (s : State) (nnn : Addr12),
    decode (0xB#4 ++ nnn) = .instr (.jpV0 nnn) ∧
    CompletesWith (.jpV0 nnn) s fun t => t.pc.toNat = nnn.toNat + (s.readV 0).toNat ∧ s.keepsExcept t [] []

/-- 43_jump_call_return R232: 2NNN pushes P + 2 and jumps; at SP = 16 it raises StackOverflow and changes nothing else. -/
def Obligations.CallPushesReturn : Prop :=
  ∀ (s : State) (nnn : Addr12),
    decode (0x2#4 ++ nnn) = .instr (.call nnn) ∧
    (s.sp.toNat = 16 → TakesError (.call nnn) s .stackOverflow) ∧
    (s.sp.toNat < 16 → CompletesWith (.call nnn) s fun t =>
      (∀ k : Fin 16, t.stack[k.val] = if k.val = s.sp.toNat then s.pc + 2 else s.stack[k.val]) ∧
      t.sp.toNat = s.sp.toNat + 1 ∧ t.pc.toNat = nnn.toNat ∧ s.keepsExcept t [] [.stack])

/-- 43_jump_call_return R233: 00EE pops PC and leaves the entry in place; at SP = 0 it raises StackUnderflow and changes nothing else. -/
def Obligations.ReturnPopsStack : Prop :=
  ∀ s : State,
    decode 0x00EE = .instr .ret ∧
    (s.sp.toNat = 0 → TakesError .ret s .stackUnderflow) ∧
    (∀ k : Fin 16, s.sp.toNat = k.val + 1 → CompletesWith .ret s fun t =>
      t.pc = s.stack[k.val] ∧ t.sp.toNat = k.val ∧ t.stack = s.stack ∧ s.keepsExcept t [] [.stack])

/-- The model's choice for a state whose SP is not legal (notes/assumptions/7.md): CALL and RET stop with a fault of their own. -/
def Obligations.IllegalStackPointerStops : Prop :=
  ∀ (s : State) (nnn : Addr12), 16 < s.sp.toNat →
    exec (.call nnn) s = .fault .noStackEntry ∧ exec .ret s = .fault .noStackEntry

/-- The nesting law of 43_jump_call_return R234, which the spec derives from R232 and R233: after a CALL at P, any run of commands that never takes SP below where the CALL left it leaves the return address in place, so a RET at that SP resumes at P + 2 with the SP before the CALL. -/
def Obligations.NestedCallsReturn : Prop :=
  ∀ (s t : State) (nnn : Addr12) (k : Nat) (trace : Nat → State),
    exec (.call nnn) s = .next t → t.err = 0 → s.sp.toNat < 16 → trace 0 = t →
    (∀ j, j < k → step (trace j) = .next (trace (j + 1))) →
    (∀ j, j ≤ k → t.sp.toNat ≤ (trace j).sp.toNat) →
    (trace k).sp = t.sp →
    CompletesWith .ret (trace k) fun u => u.pc = s.pc + 2 ∧ u.sp = s.sp

/-- 43_jump_call_return R234, a rule the spec derives: seventeen CALLs in a row from an empty stack: SP counts to 16, and the 17th raises StackOverflow and changes nothing else. -/
def Obligations.SeventeenthCallOverflows : Prop :=
  ∀ (target : Nat → Addr12) (trace : Nat → State), (trace 0).sp = 0 →
    (∀ j, j < 17 → exec (.call (target j)) (trace j) = .next (trace (j + 1))) →
    (∀ j, j ≤ 16 → (trace j).sp.toNat = j ∧ (trace j).err = (trace 0).err) ∧
    trace 17 = { trace 16 with err := 3 }

/-! ## Index register and memory (44_memory_index) -/

/-- 44_memory_index R261: ANNN sets I to NNN, its upper bits 0. -/
def Obligations.LoadIndex : Prop :=
  ∀ (s : State) (nnn : Addr12),
    decode (0xA#4 ++ nnn) = .instr (.ldI nnn) ∧
    CompletesWith (.ldI nnn) s fun t =>
      t.i.toNat = nnn.toNat ∧ t.pc = s.pc + 2 ∧ s.keepsExcept t [] [.index]

/-- 44_memory_index R262: FX1E adds mod 2^16; under `ADD_I_SETS_VF` VF says whether the sum leaves the 4096-byte space, else VF is unchanged. Both values of the parameter are covered. -/
def Obligations.AddToIndex : Prop :=
  ∀ (s : State) (x : RegIdx),
    decode (0xF#4 ++ x ++ 0x1E#8) = .instr (.addIVx x) ∧
    CompletesWith (.addIVx x) s fun t =>
      t.i.toNat = (s.i.toNat + (s.readV x).toNat) % 65536 ∧
      t.readV 0xF = (if s.params.addISetsVF then
        (if s.i.toNat + (s.readV x).toNat > 0xFFF then 1 else 0) else s.readV 0xF) ∧
      t.pc = s.pc + 2 ∧ s.keepsExcept t [0xF] [.index]

/-- 44_memory_index R263: FX29 points I at the glyph of the low nibble of V[x], at FONT_BASE; with the spec's FONT_BASE = 0 that is 5 times the nibble, at most 0x04B. -/
def Obligations.FontAddressOfDigit : Prop :=
  ∀ (s : State) (x : RegIdx),
    decode (0xF#4 ++ x ++ 0x29#8) = .instr (.ldFVx x) ∧
    CompletesWith (.ldFVx x) s fun t =>
      t.i.toNat = s.params.fontBase.val + 5 * ((s.readV x).toNat % 16) ∧
      (s.params.fontBase.val = 0 → t.i.toNat ≤ 0x04B) ∧
      t.pc = s.pc + 2 ∧ s.keepsExcept t [] [.index]

/-- 44_memory_index R264: FX33 stores the hundreds, tens and ones of V[x] at I, I+1, I+2; past 0xFFF it raises OutOfBounds and writes nothing. -/
def Obligations.BcdStoresDigits : Prop :=
  ∀ (s : State) (x : RegIdx), s.mem.wf →
    decode (0xF#4 ++ x ++ 0x33#8) = .instr (.ldBVx x) ∧
    (s.i.toNat + 2 > 0xFFF → TakesError (.ldBVx x) s .outOfBounds) ∧
    (s.i.toNat + 2 ≤ 0xFFF → CompletesWith (.ldBVx x) s fun t =>
      (t.mem.read s.i.toNat).toNat = (s.readV x).toNat / 100 ∧
      (t.mem.read (s.i.toNat + 1)).toNat = (s.readV x).toNat / 10 % 10 ∧
      (t.mem.read (s.i.toNat + 2)).toNat = (s.readV x).toNat % 10 ∧
      s.keepsMemOutside t s.i.toNat 3 ∧ t.pc = s.pc + 2 ∧ s.keepsExcept t [] [.memory])

/-- 44_memory_index R265: FX55 stores V0 to VX inclusive from I, and I is unchanged; past 0xFFF it raises OutOfBounds and writes nothing. -/
def Obligations.StoreRegisterBlock : Prop :=
  ∀ (s : State) (x : RegIdx), s.mem.wf →
    decode (0xF#4 ++ x ++ 0x55#8) = .instr (.ldMemVx x) ∧
    (s.i.toNat + x.toNat > 0xFFF → TakesError (.ldMemVx x) s .outOfBounds) ∧
    (s.i.toNat + x.toNat ≤ 0xFFF → CompletesWith (.ldMemVx x) s fun t =>
      (∀ k : RegIdx, k.toNat ≤ x.toNat → t.mem.read (s.i.toNat + k.toNat) = s.readV k) ∧
      s.keepsMemOutside t s.i.toNat (x.toNat + 1) ∧ t.pc = s.pc + 2 ∧ s.keepsExcept t [] [.memory])

/-- 44_memory_index R266: FX65 loads V0 to VX inclusive from I, and I is unchanged; past 0xFFF it raises OutOfBounds and loads nothing. -/
def Obligations.LoadRegisterBlock : Prop :=
  ∀ (s : State) (x : RegIdx),
    decode (0xF#4 ++ x ++ 0x65#8) = .instr (.ldVxMem x) ∧
    (s.i.toNat + x.toNat > 0xFFF → TakesError (.ldVxMem x) s .outOfBounds) ∧
    (s.i.toNat + x.toNat ≤ 0xFFF → CompletesWith (.ldVxMem x) s fun t =>
      (∀ k : RegIdx, t.readV k = if k.toNat ≤ x.toNat then s.mem.read (s.i.toNat + k.toNat) else s.readV k) ∧
      t.pc = s.pc + 2 ∧ ∀ p, s.same t p)

/-- 20_memory R84: the bytes FX55 stores are what the very next fetch reads when they lie at the next PC. -/
def Obligations.StoreIsFetchedNext : Prop :=
  ∀ (s : State) (x k : RegIdx), s.mem.wf → s.i.toNat + x.toNat ≤ 0xFFF → k.toNat < x.toNat →
    s.i.toNat + k.toNat = s.pc.toNat + 2 →
    CompletesWith (.ldMemVx x) s fun t => t.fetch = some (s.readV k ++ s.readV (k + 1))

/-! ## Random (45_random) and display (46_display) -/

/-- 45_random R301: V[x] takes `rnd AND NN`, for every value the random input can have; VF changes only as the destination. One random byte is consumed, whatever NN is: the bytes drawn less the bytes still lined up go up by one. -/
def Obligations.RandomIsMasked : Prop :=
  ∀ (s : State) (x : RegIdx) (nn : Byte),
    decode (0xC#4 ++ x ++ nn) = .instr (.rnd x nn) ∧
    CompletesWith (.rnd x nn) s fun t =>
      (∀ k, k < 8 → (t.readV x).getLsbD k = (s.rndIn.getLsbD k && nn.getLsbD k)) ∧
      (t.rndDraws : Int) - t.randoms.length = s.rndDraws - s.randoms.length + 1 ∧
      t.pc = s.pc + 2 ∧ s.keepsExcept t [x] [.randomSource]

/-- The model's form of the random input (notes/assumptions/2.md): CXNN takes the first byte of a seeded source and uses it up, and where none is lined up it takes a fresh free value. One byte is consumed, whatever NN is (45_random R300). -/
def Obligations.RandomByteIsConsumed : Prop :=
  ∀ (s : State) (x : RegIdx) (nn : Byte),
    CompletesWith (.rnd x nn) s fun t =>
      (∀ b rest, s.randoms = b :: rest → t.readV x = b &&& nn ∧ t.randoms = rest ∧ t.rndDraws = s.rndDraws) ∧
      (s.randoms = [] → t.readV x = Config.freeRnd s.rndDraws &&& nn ∧ t.randoms = [] ∧
        t.rndDraws = s.rndDraws + 1)

/-- 40_step_cycle R148, 10_state R63: no instruction but CXNN reads or consumes the random input, in the form it has in the model (notes/assumptions/2.md). -/
def Obligations.RandomInputOnlyForRnd : Prop :=
  ∀ (i : Instr) (s : State) (bytes : List Byte) (n : Nat), (∀ x nn, i ≠ .rnd x nn) →
    exec i { s with randoms := bytes, rndDraws := n } =
      mapNext (fun t => { t with randoms := bytes, rndDraws := n }) (exec i s)

/-- 46_display R311: 00E0 turns every pixel off and leaves VF alone. -/
def Obligations.ClearTurnsPixelsOff : Prop :=
  ∀ s : State,
    decode 0x00E0 = .instr .cls ∧
    CompletesWith .cls s fun t =>
      (∀ px py, px < 64 → py < 32 → t.disp.pixel px py = false) ∧
      t.pc = s.pc + 2 ∧ s.keepsExcept t [] [.display]

/-- 46_display R312, R313: each pixel toggles exactly if the sprite covers it with a set bit, both axes wrapping; VF says whether some pixel went off; a sprite read past 0xFFF raises OutOfBounds. -/
def Obligations.DrawTogglesSprite : Prop :=
  ∀ (s : State) (x y : RegIdx) (n : BitVec 4),
    decode (0xD#4 ++ x ++ y ++ n) = .instr (.drw x y n) ∧
    (n.toNat ≥ 1 → s.i.toNat + n.toNat - 1 > 0xFFF → TakesError (.drw x y n) s .outOfBounds) ∧
    (n.toNat = 0 ∨ s.i.toNat + n.toNat - 1 ≤ 0xFFF → CompletesWith (.drw x y n) s fun t =>
      (∀ px py, px < 64 → py < 32 → t.disp.pixel px py =
        (s.disp.pixel px py != spriteCovers s.mem s.i.toNat n.toNat (s.readV x).toNat (s.readV y).toNat px py)) ∧
      ((∃ px py, px < 64 ∧ py < 32 ∧ s.disp.pixel px py = true ∧ t.disp.pixel px py = false) →
        t.readV 0xF = 1) ∧
      ((∀ px py, px < 64 → py < 32 → s.disp.pixel px py = true → t.disp.pixel px py = true) →
        t.readV 0xF = 0) ∧
      t.pc = s.pc + 2 ∧ s.keepsExcept t [0xF] [.display])

/-- The example of 46_display R312 for every sprite and place: drawing twice gives the display back; on a clear display the first draw reports no collision, and the second reports one exactly if the sprite has a set bit. -/
def Obligations.DrawTwiceRestores : Prop :=
  ∀ (s : State) (x y : RegIdx) (n : BitVec 4), x ≠ 0xF → y ≠ 0xF →
    (n.toNat = 0 ∨ s.i.toNat + n.toNat - 1 ≤ 0xFFF) →
    CompletesWith (.drw x y n) s fun t => CompletesWith (.drw x y n) t fun u =>
      u.disp = s.disp ∧
      (s.disp = 0 → t.readV 0xF = 0 ∧
        (u.readV 0xF = 1 ↔ ∃ r c, spriteBit s.mem s.i.toNat n.toNat r c = true))

/-! ## Timers (47_timers) -/

/-- 47_timers R341, R342, R343: FX07 reads DT, FX15 writes DT, FX18 writes ST, and nothing else changes. -/
def Obligations.TimerMoves : Prop :=
  ∀ (s : State) (x : RegIdx),
    (decode (0xF#4 ++ x ++ 0x07#8) = .instr (.ldVxDT x) ∧
      CompletesWith (.ldVxDT x) s fun t => t.readV x = s.dt ∧ t.pc = s.pc + 2 ∧ s.keepsExcept t [x] []) ∧
    (decode (0xF#4 ++ x ++ 0x15#8) = .instr (.ldDTVx x) ∧
      CompletesWith (.ldDTVx x) s fun t => t.dt = s.readV x ∧ t.pc = s.pc + 2 ∧ s.keepsExcept t [] [.delay]) ∧
    (decode (0xF#4 ++ x ++ 0x18#8) = .instr (.ldSTVx x) ∧
      CompletesWith (.ldSTVx x) s fun t => t.st = s.readV x ∧ t.pc = s.pc + 2 ∧ s.keepsExcept t [] [.sound])

/-- 47_timers R345: TICK counts each timer down by one, holds it at 0, and changes no other state, whatever ERR holds. -/
def Obligations.TickCountsTimersDown : Prop :=
  ∀ (s : State) (rest : List Command), s.pending = .tick :: rest →
    ∃ t, step s = .next t ∧
      t.dt.toNat = s.dt.toNat - 1 ∧ t.st.toNat = s.st.toNat - 1 ∧
      t.snapshot = { s.snapshot with dt := t.dt, st := t.st } ∧
      t.response = .nothing ∧ t.pending = rest

/-- 47_timers R347, a rule the spec derives from R345: n ticks in a row take a timer from v to v - n, and to 0 from then on. -/
def Obligations.TicksReachZero : Prop :=
  ∀ (n : Nat) (s : State) (rest : List Command), s.pending = List.replicate n .tick ++ rest →
    ∃ t, Host.Core.run Sys2Proof.core n s = .next t ∧
      t.dt.toNat = s.dt.toNat - n ∧ t.st.toNat = s.st.toNat - n ∧
      t.snapshot = { s.snapshot with dt := t.dt, st := t.st } ∧ t.pending = rest

/-- 47_timers R344: the sound output is on exactly while ST is not 0, so it goes off on the TICK that takes ST from 1 to 0, and FX18 turns it on or off at once. -/
def Obligations.ToneFollowsSoundTimer : Prop :=
  (∀ s : State, s.soundOn = true ↔ s.st.toNat ≠ 0) ∧
  (∀ (s : State) (rest : List Command), s.pending = .tick :: rest →
    ∃ t, step s = .next t ∧ (t.soundOn = true ↔ 1 < s.st.toNat)) ∧
  (∀ (s : State) (x : RegIdx), CompletesWith (.ldSTVx x) s fun t =>
    (t.soundOn = true ↔ (s.readV x).toNat ≠ 0))

/-! ## Keypad (48_keypad) and SYS (49_legacy) -/

/-- 48_keypad R361, R362, R363: EX9E skips exactly if V[x] names a pressed key, EXA1 exactly if it does not; a value of 0x10 or more names no key. -/
def Obligations.SkipOnKey : Prop :=
  ∀ (s : State) (x : RegIdx),
    (decode (0xE#4 ++ x ++ 0x9E#8) = .instr (.skp x) ∧
      CompletesWith (.skp x) s fun t =>
        t.pc = (if (s.readV x).toNat ≤ 0x0F ∧ s.keysIn.getLsbD (s.readV x).toNat = true
          then s.pc + 4 else s.pc + 2) ∧ s.keepsExcept t [] []) ∧
    (decode (0xE#4 ++ x ++ 0xA1#8) = .instr (.sknp x) ∧
      CompletesWith (.sknp x) s fun t =>
        t.pc = (if (s.readV x).toNat ≤ 0x0F ∧ s.keysIn.getLsbD (s.readV x).toNat = true
          then s.pc + 2 else s.pc + 4) ∧ s.keepsExcept t [] [])

/-- 48_keypad R364: with no newly pressed key FX0A leaves PC where it is; else the lowest newly pressed key is stored. In both cases the step then records the sample. -/
def Obligations.WaitForKey : Prop :=
  ∀ (s : State) (x : RegIdx),
    decode (0xF#4 ++ x ++ 0x0A#8) = .instr (.ldVxK x) ∧
    CompletesWith (.ldVxK x) s fun t =>
      ((∀ k, k < 16 → s.keysIn.getLsbD k = true → s.prevKeys.getLsbD k = true) →
        t.pc = s.pc ∧ s.keepsExcept t [] []) ∧
      (∀ k, k < 16 → s.keysIn.getLsbD k = true → s.prevKeys.getLsbD k = false →
        (∀ j, j < k → s.keysIn.getLsbD j = true → s.prevKeys.getLsbD j = true) →
        (t.readV x).toNat = k ∧ t.pc = s.pc + 2 ∧ s.keepsExcept t [x] []) ∧
      (s.err = 0 → t.finishStep.prevKeys = s.keysIn)

/-- 10_state R62: no instruction but EX9E, EXA1 and FX0A reads the keypad sample, which the listed commands and the draw count give in the model (notes/assumptions/1.md). -/
def Obligations.KeypadInputOnlyForKeys : Prop :=
  ∀ (i : Instr) (s : State) (cmds : List Command) (n : Nat),
    (∀ x, i ≠ .skp x) → (∀ x, i ≠ .sknp x) → (∀ x, i ≠ .ldVxK x) →
    exec i { s with pending := cmds, keyDraws := n } =
      mapNext (fun t => { t with pending := cmds, keyDraws := n }) (exec i s)

/-- 49_legacy R391: every 0NNN word but 00E0 and 00EE is SYS; it raises Unsupported, or only advances PC where `SYS_POLICY` is NOP. -/
def Obligations.SysFollowsPolicy : Prop :=
  ∀ (s : State) (nnn : Addr12),
    (nnn ≠ 0x0E0 → nnn ≠ 0x0EE → decode (0x0#4 ++ nnn) = .instr (.sys nnn)) ∧
    (s.params.sysPolicy = .unsupported → TakesError (.sys nnn) s .unsupported) ∧
    (s.params.sysPolicy = .nop → CompletesWith (.sys nnn) s fun t =>
      t.pc = s.pc + 2 ∧ s.keepsExcept t [] [])

/-! ## The step cycle and the errors (40_step_cycle, 60_exceptions) -/

/-- 40_step_cycle R148: where the bytes at PC decode to i, STEP is exec of i, and then COMMIT (PREV_KEYS takes the sample) or, if exec raised an error, ABORT; the host's command is consumed. -/
def Obligations.StepRunsDecodedInstruction : Prop :=
  ∀ (s : State) (i : Instr), s.stepNext = true → s.err = 0 → s.pc.toNat + 1 ≤ 0xFFF →
    decode (s.mem.read s.pc.toNat ++ s.mem.read (s.pc.toNat + 1)) = .instr i →
    (∀ t, exec i s = .next t → ∃ u, step s = .next u ∧ u.pending = s.pending.tail ∧
      (t.err = 0 → u.snapshot = t.committed s.keysIn ∧ u.response = .ok) ∧
      (t.err ≠ 0 → u.snapshot = t.snapshot ∧ u.response = .error t.err)) ∧
    (∀ f, exec i s = .fault f → step s = .fault f) ∧
    (∀ r, exec i s = .refused r → step s = .refused r)

/-- 40_step_cycle R141: with an error latched STEP changes nothing, takes no input, and answers the latched code. -/
def Obligations.LatchedStepChangesNothing : Prop :=
  ∀ s : State, s.stepNext = true → s.err ≠ 0 →
    ∃ t, step s = .next t ∧ t.snapshot = s.snapshot ∧ t.response = .error s.err ∧
      t.keyDraws = s.keyDraws ∧ t.randoms = s.randoms ∧ t.rndDraws = s.rndDraws

/-- 40_step_cycle R142, R143: PC = 0xFFF and every PC above raise OutOfBounds at fetch and change only ERR; any lower PC fetches its two bytes, the first one high. -/
def Obligations.FetchIsBounded : Prop :=
  ∀ s : State,
    (s.pc.toNat + 1 ≤ 0xFFF → s.fetch = some (s.mem.read s.pc.toNat ++ s.mem.read (s.pc.toNat + 1))) ∧
    (s.stepNext = true → s.err = 0 → s.pc.toNat + 1 > 0xFFF →
      ∃ t, step s = .next t ∧ t.snapshot = { s.snapshot with err := 1 } ∧ t.response = .error 1)

/-- 60_exceptions R401: a word that decodes to no instruction raises UnknownOpcode and changes only ERR. -/
def Obligations.UnknownOpcodeIsRaised : Prop :=
  ∀ s : State, s.stepNext = true → s.err = 0 → s.pc.toNat + 1 ≤ 0xFFF →
    decode (s.mem.read s.pc.toNat ++ s.mem.read (s.pc.toNat + 1)) = .unknownOpcode →
    ∃ t, step s = .next t ∧ t.snapshot = { s.snapshot with err := 2 } ∧ t.response = .error 2

/-- 60_exceptions R412, over every instruction: a STEP that raises an error writes nothing but ERR, which takes the code of a step error. -/
def Obligations.ErrorChangesOnlyErr : Prop :=
  ∀ s t : State, s.stepNext = true → s.err = 0 → step s = .next t → t.err ≠ 0 →
    t.snapshot = { s.snapshot with err := t.err } ∧ t.response = .error t.err ∧
    t.err ∈ [1#3, 2#3, 3#3, 4#3, 6#3]

/-- 60_exceptions R411: with an error latched every STEP answers it and changes nothing, TICK still counts both timers down, an INIT that is accepted clears ERR, and no other command changes it. -/
def Obligations.OnlyInitClearsError : Prop :=
  ∀ s t : State, s.err ≠ 0 → step s = .next t →
    (s.stepNext = true → t.snapshot = s.snapshot ∧ t.response = .error s.err) ∧
    (∀ rest, s.pending = .tick :: rest →
      t.dt.toNat = s.dt.toNat - 1 ∧ t.st.toNat = s.st.toNat - 1 ∧ t.err = s.err) ∧
    (∀ image rest, s.pending = .init image :: rest → image.length ≤ 3584 → t.err = 0) ∧
    ((∀ image rest, s.pending = .init image :: rest → 3584 < image.length) → t.err = s.err)

/-- 60_exceptions R402, a rule the spec derives: which error a STEP raises depends only on PC, MEM, I, SP and `SYS_POLICY`: two states that agree on these raise the same one, whatever their keys, random bytes, timers and displays. -/
def Obligations.ErrorsIgnoreInputs : Prop :=
  ∀ s s' t t' : State, s.agreeForErrors s' → s.stepNext = true → s'.stepNext = true →
    s.err = 0 → s'.err = 0 → step s = .next t → step s' = .next t' → t.err = t'.err

/-! ## Whole-machine rules -/

/-- 10_state R33: an instruction that changes VF is an implicit flag writer or has VF as its destination. -/
def Obligations.OnlyListedInstructionsChangeVF : Prop :=
  ∀ (i : Instr) (s t : State), exec i s = .next t → t.readV 0xF ≠ s.readV 0xF →
    writesFlag i s = true ∨ writesVFAsDestination i = true

/-- 10_state R38, R41, R46, 20_memory R78, 40_step_cycle R153: who may write I, STACK, SP, DISP, MEM, DT and ST; no instruction writes PREV_KEYS or changes a parameter (notes/assumptions/4.md). -/
def Obligations.WritersOfEachPart : Prop :=
  ∀ (i : Instr) (s t : State), exec i s = .next t →
    (t.i ≠ s.i → (∃ nnn, i = .ldI nnn) ∨ (∃ x, i = .addIVx x) ∨ (∃ x, i = .ldFVx x)) ∧
    (t.stack ≠ s.stack → ∃ nnn, i = .call nnn) ∧
    (t.sp ≠ s.sp → (∃ nnn, i = .call nnn) ∨ i = .ret) ∧
    (t.disp ≠ s.disp → i = .cls ∨ ∃ x y n, i = .drw x y n) ∧
    (t.mem ≠ s.mem → (∃ x, i = .ldBVx x) ∨ ∃ x, i = .ldMemVx x) ∧
    (t.dt ≠ s.dt → ∃ x, i = .ldDTVx x) ∧
    (t.st ≠ s.st → ∃ x, i = .ldSTVx x) ∧
    t.prevKeys = s.prevKeys ∧ t.params = s.params

/-- 10_state R40: SP stays within 0 to 16, whatever the command. -/
def Obligations.StackPointerStaysLegal : Prop :=
  ∀ s t : State, s.sp.toNat ≤ 16 → step s = .next t → t.sp.toNat ≤ 16

/-- The canonical form of MEM (notes/assumptions/9.md) is kept by every command. -/
def Obligations.MemoryStaysCanonical : Prop :=
  ∀ s t : State, s.mem.wf → step s = .next t → t.mem.wf

/-- 10_state R36, a rule the spec derives: PC stays at most 0x10FE, and every return address on the stack at most 0x1000. -/
def Obligations.ProgramCounterStaysBounded : Prop :=
  ∀ s t : State, s.pcBounded → step s = .next t → t.pcBounded

/-- From a well-formed state (10_state R49, with the canonical form of notes/assumptions/9.md) no command stops the machine: every run of any length goes on, through well-formed states. -/
def Obligations.WellFormedRunsGoOn : Prop :=
  ∀ (n : Nat) (s : State), s.wf → ∃ t, Host.Core.run Sys2Proof.core n s = .next t ∧ t.wf

/-- The reset state meets every invariant stated above (10_state R49). -/
def Obligations.ResetMeetsInvariants : Prop :=
  State.reset.wf ∧ State.reset.pcBounded

/-- 70_reset R462: a Faulted state stays as it is under STEP, and a Waiting or Spinning one changes only PREV_KEYS; 48_keypad R365: a TICK leaves the class of a state as it is, so a wait stays a wait. That Waiting looks for the new press in the sample of the next STEP is the model's choice (notes/assumptions/14.md). -/
def Obligations.EndedRunsStay : Prop :=
  ∀ s : State,
    (s.stepNext = true → s.runClass = .faulted → ∃ t, step s = .next t ∧ t.snapshot = s.snapshot) ∧
    (s.stepNext = true → s.runClass = .waiting ∨ s.runClass = .spinning →
      ∃ t, step s = .next t ∧ t.snapshot = s.committed s.keysIn ∧ t.response = .ok) ∧
    (∀ rest, s.pending = .tick :: rest → ∃ t, step s = .next t ∧ t.runClass = s.runClass)

/-! ## Reset and INIT (70_reset) -/

/-- 10_state R48 for a machine with no image loaded, and the 80 font bytes of 30_encoding R131, one glyph a line: what reset leaves. -/
def Obligations.ResetValues : Prop :=
  (∀ a, State.reset.mem.read a =
    ([0xF0, 0x90, 0x90, 0x90, 0xF0] ++ [0x20, 0x60, 0x20, 0x20, 0x70] ++
     [0xF0, 0x10, 0xF0, 0x80, 0xF0] ++ [0xF0, 0x10, 0xF0, 0x10, 0xF0] ++
     [0x90, 0x90, 0xF0, 0x10, 0x10] ++ [0xF0, 0x80, 0xF0, 0x10, 0xF0] ++
     [0xF0, 0x80, 0xF0, 0x90, 0xF0] ++ [0xF0, 0x10, 0x20, 0x40, 0x40] ++
     [0xF0, 0x90, 0xF0, 0x90, 0xF0] ++ [0xF0, 0x90, 0xF0, 0x10, 0xF0] ++
     [0xF0, 0x90, 0xF0, 0x90, 0x90] ++ [0xE0, 0x90, 0xE0, 0x90, 0xE0] ++
     [0xF0, 0x80, 0x80, 0x80, 0xF0] ++ [0xE0, 0x90, 0x90, 0x90, 0xE0] ++
     [0xF0, 0x80, 0xF0, 0x80, 0xF0] ++ [0xF0, 0x80, 0xF0, 0x80, 0x80] : List Byte).getD a 0) ∧
  State.reset.params.fontBase.val = 0 ∧
  (∀ j : Fin 80, State.reset.params.fontData[j.val] = State.reset.mem.read j.val) ∧
  (∀ k, State.reset.readV k = 0) ∧ State.reset.i = 0 ∧ State.reset.pc = 0x200 ∧ State.reset.sp = 0 ∧
  (∀ k : Fin 16, State.reset.stack[k.val] = 0) ∧ State.reset.dt = 0 ∧ State.reset.st = 0 ∧
  (∀ px py, State.reset.disp.pixel px py = false) ∧ State.reset.err = 0 ∧ State.reset.prevKeys = 0

/-- 70_reset R452, whose second part the spec derives from 49_legacy R391: power-on is the state INIT of an empty image leaves, whatever the parameters of the core, and reset is that of the spec's parameters; the first STEP from it raises Unsupported at 0x200. -/
def Obligations.PowerOnIsEmptyInit : Prop :=
  (∀ (s : State) (rest : List Command), s.pending = .init [] :: rest →
    ∃ t, step s = .next t ∧ t.snapshot = (State.powerOn s.params).snapshot) ∧
  State.powerOn State.reset.params = State.reset ∧
  (State.reset.fetch = some 0x0000 ∧
    ∃ t, step State.reset = .next t ∧ t.err = 6 ∧ t.pc = 0x200 ∧ t.response = .error 6)

/-- 70_reset R450, R451 and the table of 10_state R48, for every FONT_BASE and FONT_DATA: INIT loads an image of at most 3584 bytes at 0x200, the font at FONT_BASE and zeros elsewhere, and sets every other element to its reset value; a longer image is rejected with ProgramTooLarge and changes nothing, ERR included. The spec's font is in ResetValues. -/
def Obligations.InitLoadsImage : Prop :=
  ∀ (s : State) (image : List Byte) (rest : List Command), s.pending = .init image :: rest →
    (image.length ≤ 3584 → ∃ t, step s = .next t ∧ t.response = .ok ∧
      (∀ k, (h : k < image.length) → t.mem.read (0x200 + k) = image[k]) ∧
      (∀ j : Fin 80, t.mem.read (s.params.fontBase.val + j.val) = s.params.fontData[j.val]) ∧
      (∀ a, ¬ (0x200 ≤ a ∧ a < 0x200 + image.length) →
        ¬ (s.params.fontBase.val ≤ a ∧ a < s.params.fontBase.val + 80) → t.mem.read a = 0) ∧
      (∀ k, t.readV k = 0) ∧ t.i = 0 ∧ t.pc = 0x200 ∧ t.sp = 0 ∧ (∀ k : Fin 16, t.stack[k.val] = 0) ∧
      t.dt = 0 ∧ t.st = 0 ∧ (∀ px py, t.disp.pixel px py = false) ∧ t.err = 0 ∧ t.prevKeys = 0) ∧
    (image.length > 3584 → ∃ t, step s = .next t ∧ t.snapshot = s.snapshot ∧ t.response = .error 5)
end

