-- ==== Sys2Proof/Laws/State.lean ====
section
/-! SUPPORT. The state's small lemmas: for each named update, what each field holds after it, so that no proof unfolds a record update. -/

namespace Sys2Proof.Machine

@[simp] theorem State.writeV_mem (s : State) (x : RegIdx) (b : Byte) : (s.writeV x b).mem = s.mem := rfl
@[simp] theorem State.writeV_i (s : State) (x : RegIdx) (b : Byte) : (s.writeV x b).i = s.i := rfl
@[simp] theorem State.writeV_pc (s : State) (x : RegIdx) (b : Byte) : (s.writeV x b).pc = s.pc := rfl
@[simp] theorem State.writeV_stack (s : State) (x : RegIdx) (b : Byte) : (s.writeV x b).stack = s.stack := rfl
@[simp] theorem State.writeV_sp (s : State) (x : RegIdx) (b : Byte) : (s.writeV x b).sp = s.sp := rfl
@[simp] theorem State.writeV_dt (s : State) (x : RegIdx) (b : Byte) : (s.writeV x b).dt = s.dt := rfl
@[simp] theorem State.writeV_st (s : State) (x : RegIdx) (b : Byte) : (s.writeV x b).st = s.st := rfl
@[simp] theorem State.writeV_disp (s : State) (x : RegIdx) (b : Byte) : (s.writeV x b).disp = s.disp := rfl
@[simp] theorem State.writeV_err (s : State) (x : RegIdx) (b : Byte) : (s.writeV x b).err = s.err := rfl
@[simp] theorem State.writeV_prevKeys (s : State) (x : RegIdx) (b : Byte) : (s.writeV x b).prevKeys = s.prevKeys := rfl
@[simp] theorem State.writeV_params (s : State) (x : RegIdx) (b : Byte) : (s.writeV x b).params = s.params := rfl
@[simp] theorem State.writeV_pending (s : State) (x : RegIdx) (b : Byte) : (s.writeV x b).pending = s.pending := rfl
@[simp] theorem State.writeV_keyDraws (s : State) (x : RegIdx) (b : Byte) : (s.writeV x b).keyDraws = s.keyDraws := rfl
@[simp] theorem State.writeV_randoms (s : State) (x : RegIdx) (b : Byte) : (s.writeV x b).randoms = s.randoms := rfl
@[simp] theorem State.writeV_rndDraws (s : State) (x : RegIdx) (b : Byte) : (s.writeV x b).rndDraws = s.rndDraws := rfl
@[simp] theorem State.writeV_response (s : State) (x : RegIdx) (b : Byte) : (s.writeV x b).response = s.response := rfl

@[simp] theorem State.jumpTo_mem (s : State) (a : Word) : (s.jumpTo a).mem = s.mem := rfl
@[simp] theorem State.jumpTo_v (s : State) (a : Word) : (s.jumpTo a).v = s.v := rfl
@[simp] theorem State.jumpTo_i (s : State) (a : Word) : (s.jumpTo a).i = s.i := rfl
@[simp] theorem State.jumpTo_pc (s : State) (a : Word) : (s.jumpTo a).pc = (a) := rfl
@[simp] theorem State.jumpTo_stack (s : State) (a : Word) : (s.jumpTo a).stack = s.stack := rfl
@[simp] theorem State.jumpTo_sp (s : State) (a : Word) : (s.jumpTo a).sp = s.sp := rfl
@[simp] theorem State.jumpTo_dt (s : State) (a : Word) : (s.jumpTo a).dt = s.dt := rfl
@[simp] theorem State.jumpTo_st (s : State) (a : Word) : (s.jumpTo a).st = s.st := rfl
@[simp] theorem State.jumpTo_disp (s : State) (a : Word) : (s.jumpTo a).disp = s.disp := rfl
@[simp] theorem State.jumpTo_err (s : State) (a : Word) : (s.jumpTo a).err = s.err := rfl
@[simp] theorem State.jumpTo_prevKeys (s : State) (a : Word) : (s.jumpTo a).prevKeys = s.prevKeys := rfl
@[simp] theorem State.jumpTo_params (s : State) (a : Word) : (s.jumpTo a).params = s.params := rfl
@[simp] theorem State.jumpTo_pending (s : State) (a : Word) : (s.jumpTo a).pending = s.pending := rfl
@[simp] theorem State.jumpTo_keyDraws (s : State) (a : Word) : (s.jumpTo a).keyDraws = s.keyDraws := rfl
@[simp] theorem State.jumpTo_randoms (s : State) (a : Word) : (s.jumpTo a).randoms = s.randoms := rfl
@[simp] theorem State.jumpTo_rndDraws (s : State) (a : Word) : (s.jumpTo a).rndDraws = s.rndDraws := rfl
@[simp] theorem State.jumpTo_response (s : State) (a : Word) : (s.jumpTo a).response = s.response := rfl

@[simp] theorem State.advance_mem (s : State) : (s.advance).mem = s.mem := rfl
@[simp] theorem State.advance_v (s : State) : (s.advance).v = s.v := rfl
@[simp] theorem State.advance_i (s : State) : (s.advance).i = s.i := rfl
@[simp] theorem State.advance_pc (s : State) : (s.advance).pc = (s.pc + 2) := rfl
@[simp] theorem State.advance_stack (s : State) : (s.advance).stack = s.stack := rfl
@[simp] theorem State.advance_sp (s : State) : (s.advance).sp = s.sp := rfl
@[simp] theorem State.advance_dt (s : State) : (s.advance).dt = s.dt := rfl
@[simp] theorem State.advance_st (s : State) : (s.advance).st = s.st := rfl
@[simp] theorem State.advance_disp (s : State) : (s.advance).disp = s.disp := rfl
@[simp] theorem State.advance_err (s : State) : (s.advance).err = s.err := rfl
@[simp] theorem State.advance_prevKeys (s : State) : (s.advance).prevKeys = s.prevKeys := rfl
@[simp] theorem State.advance_params (s : State) : (s.advance).params = s.params := rfl
@[simp] theorem State.advance_pending (s : State) : (s.advance).pending = s.pending := rfl
@[simp] theorem State.advance_keyDraws (s : State) : (s.advance).keyDraws = s.keyDraws := rfl
@[simp] theorem State.advance_randoms (s : State) : (s.advance).randoms = s.randoms := rfl
@[simp] theorem State.advance_rndDraws (s : State) : (s.advance).rndDraws = s.rndDraws := rfl
@[simp] theorem State.advance_response (s : State) : (s.advance).response = s.response := rfl

@[simp] theorem State.skipIf_mem (s : State) (c : Bool) : (s.skipIf c).mem = s.mem := rfl
@[simp] theorem State.skipIf_v (s : State) (c : Bool) : (s.skipIf c).v = s.v := rfl
@[simp] theorem State.skipIf_i (s : State) (c : Bool) : (s.skipIf c).i = s.i := rfl
@[simp] theorem State.skipIf_pc (s : State) (c : Bool) : (s.skipIf c).pc = (if c then s.pc + 4 else s.pc + 2) := rfl
@[simp] theorem State.skipIf_stack (s : State) (c : Bool) : (s.skipIf c).stack = s.stack := rfl
@[simp] theorem State.skipIf_sp (s : State) (c : Bool) : (s.skipIf c).sp = s.sp := rfl
@[simp] theorem State.skipIf_dt (s : State) (c : Bool) : (s.skipIf c).dt = s.dt := rfl
@[simp] theorem State.skipIf_st (s : State) (c : Bool) : (s.skipIf c).st = s.st := rfl
@[simp] theorem State.skipIf_disp (s : State) (c : Bool) : (s.skipIf c).disp = s.disp := rfl
@[simp] theorem State.skipIf_err (s : State) (c : Bool) : (s.skipIf c).err = s.err := rfl
@[simp] theorem State.skipIf_prevKeys (s : State) (c : Bool) : (s.skipIf c).prevKeys = s.prevKeys := rfl
@[simp] theorem State.skipIf_params (s : State) (c : Bool) : (s.skipIf c).params = s.params := rfl
@[simp] theorem State.skipIf_pending (s : State) (c : Bool) : (s.skipIf c).pending = s.pending := rfl
@[simp] theorem State.skipIf_keyDraws (s : State) (c : Bool) : (s.skipIf c).keyDraws = s.keyDraws := rfl
@[simp] theorem State.skipIf_randoms (s : State) (c : Bool) : (s.skipIf c).randoms = s.randoms := rfl
@[simp] theorem State.skipIf_rndDraws (s : State) (c : Bool) : (s.skipIf c).rndDraws = s.rndDraws := rfl
@[simp] theorem State.skipIf_response (s : State) (c : Bool) : (s.skipIf c).response = s.response := rfl

@[simp] theorem State.setI_mem (s : State) (a : Word) : (s.setI a).mem = s.mem := rfl
@[simp] theorem State.setI_v (s : State) (a : Word) : (s.setI a).v = s.v := rfl
@[simp] theorem State.setI_i (s : State) (a : Word) : (s.setI a).i = (a) := rfl
@[simp] theorem State.setI_pc (s : State) (a : Word) : (s.setI a).pc = s.pc := rfl
@[simp] theorem State.setI_stack (s : State) (a : Word) : (s.setI a).stack = s.stack := rfl
@[simp] theorem State.setI_sp (s : State) (a : Word) : (s.setI a).sp = s.sp := rfl
@[simp] theorem State.setI_dt (s : State) (a : Word) : (s.setI a).dt = s.dt := rfl
@[simp] theorem State.setI_st (s : State) (a : Word) : (s.setI a).st = s.st := rfl
@[simp] theorem State.setI_disp (s : State) (a : Word) : (s.setI a).disp = s.disp := rfl
@[simp] theorem State.setI_err (s : State) (a : Word) : (s.setI a).err = s.err := rfl
@[simp] theorem State.setI_prevKeys (s : State) (a : Word) : (s.setI a).prevKeys = s.prevKeys := rfl
@[simp] theorem State.setI_params (s : State) (a : Word) : (s.setI a).params = s.params := rfl
@[simp] theorem State.setI_pending (s : State) (a : Word) : (s.setI a).pending = s.pending := rfl
@[simp] theorem State.setI_keyDraws (s : State) (a : Word) : (s.setI a).keyDraws = s.keyDraws := rfl
@[simp] theorem State.setI_randoms (s : State) (a : Word) : (s.setI a).randoms = s.randoms := rfl
@[simp] theorem State.setI_rndDraws (s : State) (a : Word) : (s.setI a).rndDraws = s.rndDraws := rfl
@[simp] theorem State.setI_response (s : State) (a : Word) : (s.setI a).response = s.response := rfl

@[simp] theorem State.storeBytes_mem (s : State) (a : Nat) (bytes : List Byte) : (s.storeBytes a bytes).mem = (Memory.load bytes a s.mem) := rfl
@[simp] theorem State.storeBytes_v (s : State) (a : Nat) (bytes : List Byte) : (s.storeBytes a bytes).v = s.v := rfl
@[simp] theorem State.storeBytes_i (s : State) (a : Nat) (bytes : List Byte) : (s.storeBytes a bytes).i = s.i := rfl
@[simp] theorem State.storeBytes_pc (s : State) (a : Nat) (bytes : List Byte) : (s.storeBytes a bytes).pc = s.pc := rfl
@[simp] theorem State.storeBytes_stack (s : State) (a : Nat) (bytes : List Byte) : (s.storeBytes a bytes).stack = s.stack := rfl
@[simp] theorem State.storeBytes_sp (s : State) (a : Nat) (bytes : List Byte) : (s.storeBytes a bytes).sp = s.sp := rfl
@[simp] theorem State.storeBytes_dt (s : State) (a : Nat) (bytes : List Byte) : (s.storeBytes a bytes).dt = s.dt := rfl
@[simp] theorem State.storeBytes_st (s : State) (a : Nat) (bytes : List Byte) : (s.storeBytes a bytes).st = s.st := rfl
@[simp] theorem State.storeBytes_disp (s : State) (a : Nat) (bytes : List Byte) : (s.storeBytes a bytes).disp = s.disp := rfl
@[simp] theorem State.storeBytes_err (s : State) (a : Nat) (bytes : List Byte) : (s.storeBytes a bytes).err = s.err := rfl
@[simp] theorem State.storeBytes_prevKeys (s : State) (a : Nat) (bytes : List Byte) : (s.storeBytes a bytes).prevKeys = s.prevKeys := rfl
@[simp] theorem State.storeBytes_params (s : State) (a : Nat) (bytes : List Byte) : (s.storeBytes a bytes).params = s.params := rfl
@[simp] theorem State.storeBytes_pending (s : State) (a : Nat) (bytes : List Byte) : (s.storeBytes a bytes).pending = s.pending := rfl
@[simp] theorem State.storeBytes_keyDraws (s : State) (a : Nat) (bytes : List Byte) : (s.storeBytes a bytes).keyDraws = s.keyDraws := rfl
@[simp] theorem State.storeBytes_randoms (s : State) (a : Nat) (bytes : List Byte) : (s.storeBytes a bytes).randoms = s.randoms := rfl
@[simp] theorem State.storeBytes_rndDraws (s : State) (a : Nat) (bytes : List Byte) : (s.storeBytes a bytes).rndDraws = s.rndDraws := rfl
@[simp] theorem State.storeBytes_response (s : State) (a : Nat) (bytes : List Byte) : (s.storeBytes a bytes).response = s.response := rfl

@[simp] theorem State.raise_mem (s : State) (e : CoreError) : (s.raise e).mem = s.mem := rfl
@[simp] theorem State.raise_v (s : State) (e : CoreError) : (s.raise e).v = s.v := rfl
@[simp] theorem State.raise_i (s : State) (e : CoreError) : (s.raise e).i = s.i := rfl
@[simp] theorem State.raise_pc (s : State) (e : CoreError) : (s.raise e).pc = s.pc := rfl
@[simp] theorem State.raise_stack (s : State) (e : CoreError) : (s.raise e).stack = s.stack := rfl
@[simp] theorem State.raise_sp (s : State) (e : CoreError) : (s.raise e).sp = s.sp := rfl
@[simp] theorem State.raise_dt (s : State) (e : CoreError) : (s.raise e).dt = s.dt := rfl
@[simp] theorem State.raise_st (s : State) (e : CoreError) : (s.raise e).st = s.st := rfl
@[simp] theorem State.raise_disp (s : State) (e : CoreError) : (s.raise e).disp = s.disp := rfl
@[simp] theorem State.raise_err (s : State) (e : CoreError) : (s.raise e).err = (e.code) := rfl
@[simp] theorem State.raise_prevKeys (s : State) (e : CoreError) : (s.raise e).prevKeys = s.prevKeys := rfl
@[simp] theorem State.raise_params (s : State) (e : CoreError) : (s.raise e).params = s.params := rfl
@[simp] theorem State.raise_pending (s : State) (e : CoreError) : (s.raise e).pending = s.pending := rfl
@[simp] theorem State.raise_keyDraws (s : State) (e : CoreError) : (s.raise e).keyDraws = s.keyDraws := rfl
@[simp] theorem State.raise_randoms (s : State) (e : CoreError) : (s.raise e).randoms = s.randoms := rfl
@[simp] theorem State.raise_rndDraws (s : State) (e : CoreError) : (s.raise e).rndDraws = s.rndDraws := rfl
@[simp] theorem State.raise_response (s : State) (e : CoreError) : (s.raise e).response = s.response := rfl

@[simp] theorem State.writeFlag_mem (s : State) (f : Bool) : (s.writeFlag f).mem = s.mem := rfl
@[simp] theorem State.writeFlag_i (s : State) (f : Bool) : (s.writeFlag f).i = s.i := rfl
@[simp] theorem State.writeFlag_pc (s : State) (f : Bool) : (s.writeFlag f).pc = s.pc := rfl
@[simp] theorem State.writeFlag_stack (s : State) (f : Bool) : (s.writeFlag f).stack = s.stack := rfl
@[simp] theorem State.writeFlag_sp (s : State) (f : Bool) : (s.writeFlag f).sp = s.sp := rfl
@[simp] theorem State.writeFlag_dt (s : State) (f : Bool) : (s.writeFlag f).dt = s.dt := rfl
@[simp] theorem State.writeFlag_st (s : State) (f : Bool) : (s.writeFlag f).st = s.st := rfl
@[simp] theorem State.writeFlag_disp (s : State) (f : Bool) : (s.writeFlag f).disp = s.disp := rfl
@[simp] theorem State.writeFlag_err (s : State) (f : Bool) : (s.writeFlag f).err = s.err := rfl
@[simp] theorem State.writeFlag_prevKeys (s : State) (f : Bool) : (s.writeFlag f).prevKeys = s.prevKeys := rfl
@[simp] theorem State.writeFlag_params (s : State) (f : Bool) : (s.writeFlag f).params = s.params := rfl
@[simp] theorem State.writeFlag_pending (s : State) (f : Bool) : (s.writeFlag f).pending = s.pending := rfl
@[simp] theorem State.writeFlag_keyDraws (s : State) (f : Bool) : (s.writeFlag f).keyDraws = s.keyDraws := rfl
@[simp] theorem State.writeFlag_randoms (s : State) (f : Bool) : (s.writeFlag f).randoms = s.randoms := rfl
@[simp] theorem State.writeFlag_rndDraws (s : State) (f : Bool) : (s.writeFlag f).rndDraws = s.rndDraws := rfl
@[simp] theorem State.writeFlag_response (s : State) (f : Bool) : (s.writeFlag f).response = s.response := rfl

@[simp] theorem State.writeResultFlag_mem (s : State) (x : RegIdx) (r : Byte) (f : Bool) : (s.writeResultFlag x r f).mem = s.mem := rfl
@[simp] theorem State.writeResultFlag_i (s : State) (x : RegIdx) (r : Byte) (f : Bool) : (s.writeResultFlag x r f).i = s.i := rfl
@[simp] theorem State.writeResultFlag_pc (s : State) (x : RegIdx) (r : Byte) (f : Bool) : (s.writeResultFlag x r f).pc = s.pc := rfl
@[simp] theorem State.writeResultFlag_stack (s : State) (x : RegIdx) (r : Byte) (f : Bool) : (s.writeResultFlag x r f).stack = s.stack := rfl
@[simp] theorem State.writeResultFlag_sp (s : State) (x : RegIdx) (r : Byte) (f : Bool) : (s.writeResultFlag x r f).sp = s.sp := rfl
@[simp] theorem State.writeResultFlag_dt (s : State) (x : RegIdx) (r : Byte) (f : Bool) : (s.writeResultFlag x r f).dt = s.dt := rfl
@[simp] theorem State.writeResultFlag_st (s : State) (x : RegIdx) (r : Byte) (f : Bool) : (s.writeResultFlag x r f).st = s.st := rfl
@[simp] theorem State.writeResultFlag_disp (s : State) (x : RegIdx) (r : Byte) (f : Bool) : (s.writeResultFlag x r f).disp = s.disp := rfl
@[simp] theorem State.writeResultFlag_err (s : State) (x : RegIdx) (r : Byte) (f : Bool) : (s.writeResultFlag x r f).err = s.err := rfl
@[simp] theorem State.writeResultFlag_prevKeys (s : State) (x : RegIdx) (r : Byte) (f : Bool) : (s.writeResultFlag x r f).prevKeys = s.prevKeys := rfl
@[simp] theorem State.writeResultFlag_params (s : State) (x : RegIdx) (r : Byte) (f : Bool) : (s.writeResultFlag x r f).params = s.params := rfl
@[simp] theorem State.writeResultFlag_pending (s : State) (x : RegIdx) (r : Byte) (f : Bool) : (s.writeResultFlag x r f).pending = s.pending := rfl
@[simp] theorem State.writeResultFlag_keyDraws (s : State) (x : RegIdx) (r : Byte) (f : Bool) : (s.writeResultFlag x r f).keyDraws = s.keyDraws := rfl
@[simp] theorem State.writeResultFlag_randoms (s : State) (x : RegIdx) (r : Byte) (f : Bool) : (s.writeResultFlag x r f).randoms = s.randoms := rfl
@[simp] theorem State.writeResultFlag_rndDraws (s : State) (x : RegIdx) (r : Byte) (f : Bool) : (s.writeResultFlag x r f).rndDraws = s.rndDraws := rfl
@[simp] theorem State.writeResultFlag_response (s : State) (x : RegIdx) (r : Byte) (f : Bool) : (s.writeResultFlag x r f).response = s.response := rfl

@[simp] theorem State.writeIndexFlag_mem (s : State) (sum : Nat) : (s.writeIndexFlag sum).mem = s.mem := rfl
@[simp] theorem State.writeIndexFlag_i (s : State) (sum : Nat) : (s.writeIndexFlag sum).i = s.i := rfl
@[simp] theorem State.writeIndexFlag_pc (s : State) (sum : Nat) : (s.writeIndexFlag sum).pc = s.pc := rfl
@[simp] theorem State.writeIndexFlag_stack (s : State) (sum : Nat) : (s.writeIndexFlag sum).stack = s.stack := rfl
@[simp] theorem State.writeIndexFlag_sp (s : State) (sum : Nat) : (s.writeIndexFlag sum).sp = s.sp := rfl
@[simp] theorem State.writeIndexFlag_dt (s : State) (sum : Nat) : (s.writeIndexFlag sum).dt = s.dt := rfl
@[simp] theorem State.writeIndexFlag_st (s : State) (sum : Nat) : (s.writeIndexFlag sum).st = s.st := rfl
@[simp] theorem State.writeIndexFlag_disp (s : State) (sum : Nat) : (s.writeIndexFlag sum).disp = s.disp := rfl
@[simp] theorem State.writeIndexFlag_err (s : State) (sum : Nat) : (s.writeIndexFlag sum).err = s.err := rfl
@[simp] theorem State.writeIndexFlag_prevKeys (s : State) (sum : Nat) : (s.writeIndexFlag sum).prevKeys = s.prevKeys := rfl
@[simp] theorem State.writeIndexFlag_params (s : State) (sum : Nat) : (s.writeIndexFlag sum).params = s.params := rfl
@[simp] theorem State.writeIndexFlag_pending (s : State) (sum : Nat) : (s.writeIndexFlag sum).pending = s.pending := rfl
@[simp] theorem State.writeIndexFlag_keyDraws (s : State) (sum : Nat) : (s.writeIndexFlag sum).keyDraws = s.keyDraws := rfl
@[simp] theorem State.writeIndexFlag_randoms (s : State) (sum : Nat) : (s.writeIndexFlag sum).randoms = s.randoms := rfl
@[simp] theorem State.writeIndexFlag_rndDraws (s : State) (sum : Nat) : (s.writeIndexFlag sum).rndDraws = s.rndDraws := rfl
@[simp] theorem State.writeIndexFlag_response (s : State) (sum : Nat) : (s.writeIndexFlag sum).response = s.response := rfl

@[simp] theorem State.setDisp_mem (s : State) (d : Display) : (s.setDisp d).mem = s.mem := rfl
@[simp] theorem State.setDisp_v (s : State) (d : Display) : (s.setDisp d).v = s.v := rfl
@[simp] theorem State.setDisp_i (s : State) (d : Display) : (s.setDisp d).i = s.i := rfl
@[simp] theorem State.setDisp_pc (s : State) (d : Display) : (s.setDisp d).pc = s.pc := rfl
@[simp] theorem State.setDisp_stack (s : State) (d : Display) : (s.setDisp d).stack = s.stack := rfl
@[simp] theorem State.setDisp_sp (s : State) (d : Display) : (s.setDisp d).sp = s.sp := rfl
@[simp] theorem State.setDisp_dt (s : State) (d : Display) : (s.setDisp d).dt = s.dt := rfl
@[simp] theorem State.setDisp_st (s : State) (d : Display) : (s.setDisp d).st = s.st := rfl
@[simp] theorem State.setDisp_disp (s : State) (d : Display) : (s.setDisp d).disp = (d) := rfl
@[simp] theorem State.setDisp_err (s : State) (d : Display) : (s.setDisp d).err = s.err := rfl
@[simp] theorem State.setDisp_prevKeys (s : State) (d : Display) : (s.setDisp d).prevKeys = s.prevKeys := rfl
@[simp] theorem State.setDisp_params (s : State) (d : Display) : (s.setDisp d).params = s.params := rfl
@[simp] theorem State.setDisp_pending (s : State) (d : Display) : (s.setDisp d).pending = s.pending := rfl
@[simp] theorem State.setDisp_keyDraws (s : State) (d : Display) : (s.setDisp d).keyDraws = s.keyDraws := rfl
@[simp] theorem State.setDisp_randoms (s : State) (d : Display) : (s.setDisp d).randoms = s.randoms := rfl
@[simp] theorem State.setDisp_rndDraws (s : State) (d : Display) : (s.setDisp d).rndDraws = s.rndDraws := rfl
@[simp] theorem State.setDisp_response (s : State) (d : Display) : (s.setDisp d).response = s.response := rfl

@[simp] theorem State.setDT_mem (s : State) (b : Byte) : (s.setDT b).mem = s.mem := rfl
@[simp] theorem State.setDT_v (s : State) (b : Byte) : (s.setDT b).v = s.v := rfl
@[simp] theorem State.setDT_i (s : State) (b : Byte) : (s.setDT b).i = s.i := rfl
@[simp] theorem State.setDT_pc (s : State) (b : Byte) : (s.setDT b).pc = s.pc := rfl
@[simp] theorem State.setDT_stack (s : State) (b : Byte) : (s.setDT b).stack = s.stack := rfl
@[simp] theorem State.setDT_sp (s : State) (b : Byte) : (s.setDT b).sp = s.sp := rfl
@[simp] theorem State.setDT_dt (s : State) (b : Byte) : (s.setDT b).dt = (b) := rfl
@[simp] theorem State.setDT_st (s : State) (b : Byte) : (s.setDT b).st = s.st := rfl
@[simp] theorem State.setDT_disp (s : State) (b : Byte) : (s.setDT b).disp = s.disp := rfl
@[simp] theorem State.setDT_err (s : State) (b : Byte) : (s.setDT b).err = s.err := rfl
@[simp] theorem State.setDT_prevKeys (s : State) (b : Byte) : (s.setDT b).prevKeys = s.prevKeys := rfl
@[simp] theorem State.setDT_params (s : State) (b : Byte) : (s.setDT b).params = s.params := rfl
@[simp] theorem State.setDT_pending (s : State) (b : Byte) : (s.setDT b).pending = s.pending := rfl
@[simp] theorem State.setDT_keyDraws (s : State) (b : Byte) : (s.setDT b).keyDraws = s.keyDraws := rfl
@[simp] theorem State.setDT_randoms (s : State) (b : Byte) : (s.setDT b).randoms = s.randoms := rfl
@[simp] theorem State.setDT_rndDraws (s : State) (b : Byte) : (s.setDT b).rndDraws = s.rndDraws := rfl
@[simp] theorem State.setDT_response (s : State) (b : Byte) : (s.setDT b).response = s.response := rfl

@[simp] theorem State.setST_mem (s : State) (b : Byte) : (s.setST b).mem = s.mem := rfl
@[simp] theorem State.setST_v (s : State) (b : Byte) : (s.setST b).v = s.v := rfl
@[simp] theorem State.setST_i (s : State) (b : Byte) : (s.setST b).i = s.i := rfl
@[simp] theorem State.setST_pc (s : State) (b : Byte) : (s.setST b).pc = s.pc := rfl
@[simp] theorem State.setST_stack (s : State) (b : Byte) : (s.setST b).stack = s.stack := rfl
@[simp] theorem State.setST_sp (s : State) (b : Byte) : (s.setST b).sp = s.sp := rfl
@[simp] theorem State.setST_dt (s : State) (b : Byte) : (s.setST b).dt = s.dt := rfl
@[simp] theorem State.setST_st (s : State) (b : Byte) : (s.setST b).st = (b) := rfl
@[simp] theorem State.setST_disp (s : State) (b : Byte) : (s.setST b).disp = s.disp := rfl
@[simp] theorem State.setST_err (s : State) (b : Byte) : (s.setST b).err = s.err := rfl
@[simp] theorem State.setST_prevKeys (s : State) (b : Byte) : (s.setST b).prevKeys = s.prevKeys := rfl
@[simp] theorem State.setST_params (s : State) (b : Byte) : (s.setST b).params = s.params := rfl
@[simp] theorem State.setST_pending (s : State) (b : Byte) : (s.setST b).pending = s.pending := rfl
@[simp] theorem State.setST_keyDraws (s : State) (b : Byte) : (s.setST b).keyDraws = s.keyDraws := rfl
@[simp] theorem State.setST_randoms (s : State) (b : Byte) : (s.setST b).randoms = s.randoms := rfl
@[simp] theorem State.setST_rndDraws (s : State) (b : Byte) : (s.setST b).rndDraws = s.rndDraws := rfl
@[simp] theorem State.setST_response (s : State) (b : Byte) : (s.setST b).response = s.response := rfl

@[simp] theorem State.waitKey_mem (s : State) (x : RegIdx) : (s.waitKey x).mem = s.mem := rfl
@[simp] theorem State.waitKey_i (s : State) (x : RegIdx) : (s.waitKey x).i = s.i := rfl
@[simp] theorem State.waitKey_stack (s : State) (x : RegIdx) : (s.waitKey x).stack = s.stack := rfl
@[simp] theorem State.waitKey_sp (s : State) (x : RegIdx) : (s.waitKey x).sp = s.sp := rfl
@[simp] theorem State.waitKey_dt (s : State) (x : RegIdx) : (s.waitKey x).dt = s.dt := rfl
@[simp] theorem State.waitKey_st (s : State) (x : RegIdx) : (s.waitKey x).st = s.st := rfl
@[simp] theorem State.waitKey_disp (s : State) (x : RegIdx) : (s.waitKey x).disp = s.disp := rfl
@[simp] theorem State.waitKey_err (s : State) (x : RegIdx) : (s.waitKey x).err = s.err := rfl
@[simp] theorem State.waitKey_prevKeys (s : State) (x : RegIdx) : (s.waitKey x).prevKeys = s.prevKeys := rfl
@[simp] theorem State.waitKey_params (s : State) (x : RegIdx) : (s.waitKey x).params = s.params := rfl
@[simp] theorem State.waitKey_pending (s : State) (x : RegIdx) : (s.waitKey x).pending = s.pending := rfl
@[simp] theorem State.waitKey_keyDraws (s : State) (x : RegIdx) : (s.waitKey x).keyDraws = s.keyDraws := rfl
@[simp] theorem State.waitKey_randoms (s : State) (x : RegIdx) : (s.waitKey x).randoms = s.randoms := rfl
@[simp] theorem State.waitKey_rndDraws (s : State) (x : RegIdx) : (s.waitKey x).rndDraws = s.rndDraws := rfl
@[simp] theorem State.waitKey_response (s : State) (x : RegIdx) : (s.waitKey x).response = s.response := rfl

@[simp] theorem State.tick_mem (s : State) : (s.tick).mem = s.mem := rfl
@[simp] theorem State.tick_v (s : State) : (s.tick).v = s.v := rfl
@[simp] theorem State.tick_i (s : State) : (s.tick).i = s.i := rfl
@[simp] theorem State.tick_pc (s : State) : (s.tick).pc = s.pc := rfl
@[simp] theorem State.tick_stack (s : State) : (s.tick).stack = s.stack := rfl
@[simp] theorem State.tick_sp (s : State) : (s.tick).sp = s.sp := rfl
@[simp] theorem State.tick_dt (s : State) : (s.tick).dt = (countDown s.dt) := rfl
@[simp] theorem State.tick_st (s : State) : (s.tick).st = (countDown s.st) := rfl
@[simp] theorem State.tick_disp (s : State) : (s.tick).disp = s.disp := rfl
@[simp] theorem State.tick_err (s : State) : (s.tick).err = s.err := rfl
@[simp] theorem State.tick_prevKeys (s : State) : (s.tick).prevKeys = s.prevKeys := rfl
@[simp] theorem State.tick_params (s : State) : (s.tick).params = s.params := rfl
@[simp] theorem State.tick_pending (s : State) : (s.tick).pending = s.pending := rfl
@[simp] theorem State.tick_keyDraws (s : State) : (s.tick).keyDraws = s.keyDraws := rfl
@[simp] theorem State.tick_randoms (s : State) : (s.tick).randoms = s.randoms := rfl
@[simp] theorem State.tick_rndDraws (s : State) : (s.tick).rndDraws = s.rndDraws := rfl
@[simp] theorem State.tick_response (s : State) : (s.tick).response = s.response := rfl

@[simp] theorem State.respond_mem (s : State) (r : Response) : (s.respond r).mem = s.mem := rfl
@[simp] theorem State.respond_v (s : State) (r : Response) : (s.respond r).v = s.v := rfl
@[simp] theorem State.respond_i (s : State) (r : Response) : (s.respond r).i = s.i := rfl
@[simp] theorem State.respond_pc (s : State) (r : Response) : (s.respond r).pc = s.pc := rfl
@[simp] theorem State.respond_stack (s : State) (r : Response) : (s.respond r).stack = s.stack := rfl
@[simp] theorem State.respond_sp (s : State) (r : Response) : (s.respond r).sp = s.sp := rfl
@[simp] theorem State.respond_dt (s : State) (r : Response) : (s.respond r).dt = s.dt := rfl
@[simp] theorem State.respond_st (s : State) (r : Response) : (s.respond r).st = s.st := rfl
@[simp] theorem State.respond_disp (s : State) (r : Response) : (s.respond r).disp = s.disp := rfl
@[simp] theorem State.respond_err (s : State) (r : Response) : (s.respond r).err = s.err := rfl
@[simp] theorem State.respond_prevKeys (s : State) (r : Response) : (s.respond r).prevKeys = s.prevKeys := rfl
@[simp] theorem State.respond_params (s : State) (r : Response) : (s.respond r).params = s.params := rfl
@[simp] theorem State.respond_pending (s : State) (r : Response) : (s.respond r).pending = s.pending := rfl
@[simp] theorem State.respond_keyDraws (s : State) (r : Response) : (s.respond r).keyDraws = s.keyDraws := rfl
@[simp] theorem State.respond_randoms (s : State) (r : Response) : (s.respond r).randoms = s.randoms := rfl
@[simp] theorem State.respond_rndDraws (s : State) (r : Response) : (s.respond r).rndDraws = s.rndDraws := rfl
@[simp] theorem State.respond_response (s : State) (r : Response) : (s.respond r).response = (r) := rfl

@[simp] theorem State.dropCommand_mem (s : State) : (s.dropCommand).mem = s.mem := rfl
@[simp] theorem State.dropCommand_v (s : State) : (s.dropCommand).v = s.v := rfl
@[simp] theorem State.dropCommand_i (s : State) : (s.dropCommand).i = s.i := rfl
@[simp] theorem State.dropCommand_pc (s : State) : (s.dropCommand).pc = s.pc := rfl
@[simp] theorem State.dropCommand_stack (s : State) : (s.dropCommand).stack = s.stack := rfl
@[simp] theorem State.dropCommand_sp (s : State) : (s.dropCommand).sp = s.sp := rfl
@[simp] theorem State.dropCommand_dt (s : State) : (s.dropCommand).dt = s.dt := rfl
@[simp] theorem State.dropCommand_st (s : State) : (s.dropCommand).st = s.st := rfl
@[simp] theorem State.dropCommand_disp (s : State) : (s.dropCommand).disp = s.disp := rfl
@[simp] theorem State.dropCommand_err (s : State) : (s.dropCommand).err = s.err := rfl
@[simp] theorem State.dropCommand_prevKeys (s : State) : (s.dropCommand).prevKeys = s.prevKeys := rfl
@[simp] theorem State.dropCommand_params (s : State) : (s.dropCommand).params = s.params := rfl
@[simp] theorem State.dropCommand_pending (s : State) : (s.dropCommand).pending = (s.pending.tail) := rfl
@[simp] theorem State.dropCommand_keyDraws (s : State) : (s.dropCommand).keyDraws = s.keyDraws := rfl
@[simp] theorem State.dropCommand_randoms (s : State) : (s.dropCommand).randoms = s.randoms := rfl
@[simp] theorem State.dropCommand_rndDraws (s : State) : (s.dropCommand).rndDraws = s.rndDraws := rfl
@[simp] theorem State.dropCommand_response (s : State) : (s.dropCommand).response = s.response := rfl

@[simp] theorem State.takeRnd_mem (s : State) : s.takeRnd.mem = s.mem := by unfold State.takeRnd; split <;> rfl
@[simp] theorem State.takeRnd_v (s : State) : s.takeRnd.v = s.v := by unfold State.takeRnd; split <;> rfl
@[simp] theorem State.takeRnd_i (s : State) : s.takeRnd.i = s.i := by unfold State.takeRnd; split <;> rfl
@[simp] theorem State.takeRnd_pc (s : State) : s.takeRnd.pc = s.pc := by unfold State.takeRnd; split <;> rfl
@[simp] theorem State.takeRnd_stack (s : State) : s.takeRnd.stack = s.stack := by unfold State.takeRnd; split <;> rfl
@[simp] theorem State.takeRnd_sp (s : State) : s.takeRnd.sp = s.sp := by unfold State.takeRnd; split <;> rfl
@[simp] theorem State.takeRnd_dt (s : State) : s.takeRnd.dt = s.dt := by unfold State.takeRnd; split <;> rfl
@[simp] theorem State.takeRnd_st (s : State) : s.takeRnd.st = s.st := by unfold State.takeRnd; split <;> rfl
@[simp] theorem State.takeRnd_disp (s : State) : s.takeRnd.disp = s.disp := by unfold State.takeRnd; split <;> rfl
@[simp] theorem State.takeRnd_err (s : State) : s.takeRnd.err = s.err := by unfold State.takeRnd; split <;> rfl
@[simp] theorem State.takeRnd_prevKeys (s : State) : s.takeRnd.prevKeys = s.prevKeys := by unfold State.takeRnd; split <;> rfl
@[simp] theorem State.takeRnd_params (s : State) : s.takeRnd.params = s.params := by unfold State.takeRnd; split <;> rfl
@[simp] theorem State.takeRnd_pending (s : State) : s.takeRnd.pending = s.pending := by unfold State.takeRnd; split <;> rfl
@[simp] theorem State.takeRnd_keyDraws (s : State) : s.takeRnd.keyDraws = s.keyDraws := by unfold State.takeRnd; split <;> rfl
@[simp] theorem State.takeRnd_response (s : State) : s.takeRnd.response = s.response := by unfold State.takeRnd; split <;> rfl

@[simp] theorem State.consumeStep_mem (s : State) : s.consumeStep.mem = s.mem := by unfold State.consumeStep; split <;> rfl
@[simp] theorem State.consumeStep_v (s : State) : s.consumeStep.v = s.v := by unfold State.consumeStep; split <;> rfl
@[simp] theorem State.consumeStep_i (s : State) : s.consumeStep.i = s.i := by unfold State.consumeStep; split <;> rfl
@[simp] theorem State.consumeStep_pc (s : State) : s.consumeStep.pc = s.pc := by unfold State.consumeStep; split <;> rfl
@[simp] theorem State.consumeStep_stack (s : State) : s.consumeStep.stack = s.stack := by unfold State.consumeStep; split <;> rfl
@[simp] theorem State.consumeStep_sp (s : State) : s.consumeStep.sp = s.sp := by unfold State.consumeStep; split <;> rfl
@[simp] theorem State.consumeStep_dt (s : State) : s.consumeStep.dt = s.dt := by unfold State.consumeStep; split <;> rfl
@[simp] theorem State.consumeStep_st (s : State) : s.consumeStep.st = s.st := by unfold State.consumeStep; split <;> rfl
@[simp] theorem State.consumeStep_disp (s : State) : s.consumeStep.disp = s.disp := by unfold State.consumeStep; split <;> rfl
@[simp] theorem State.consumeStep_err (s : State) : s.consumeStep.err = s.err := by unfold State.consumeStep; split <;> rfl
@[simp] theorem State.consumeStep_prevKeys (s : State) : s.consumeStep.prevKeys = s.prevKeys := by unfold State.consumeStep; split <;> rfl
@[simp] theorem State.consumeStep_params (s : State) : s.consumeStep.params = s.params := by unfold State.consumeStep; split <;> rfl
@[simp] theorem State.consumeStep_randoms (s : State) : s.consumeStep.randoms = s.randoms := by unfold State.consumeStep; split <;> rfl
@[simp] theorem State.consumeStep_rndDraws (s : State) : s.consumeStep.rndDraws = s.rndDraws := by unfold State.consumeStep; split <;> rfl
@[simp] theorem State.consumeStep_response (s : State) : s.consumeStep.response = s.response := by unfold State.consumeStep; split <;> rfl

/-- The pending commands after a STEP is consumed: the rest of the list. -/
@[simp] theorem State.consumeStep_pending (s : State) : s.consumeStep.pending = s.pending.tail := by
  unfold State.consumeStep; split <;> simp [*]

/-! What the ports and the inputs read through the updates that do not touch them. -/

@[simp] theorem State.respond_snapshot (s : State) (r : Response) : (s.respond r).snapshot = s.snapshot := rfl
@[simp] theorem State.dropCommand_snapshot (s : State) : s.dropCommand.snapshot = s.snapshot := rfl
@[simp] theorem State.consumeStep_snapshot (s : State) : s.consumeStep.snapshot = s.snapshot := by
  simp [State.snapshot]
@[simp] theorem State.abort_snapshot (s : State) : s.abort.snapshot = s.snapshot := by
  simp [State.abort]
@[simp] theorem State.latchedStep_snapshot (s : State) : s.latchedStep.snapshot = s.snapshot := rfl
@[simp] theorem State.commit_snapshot (s : State) : s.commit.snapshot = s.committed s.keysIn := by
  simp [State.commit, State.committed]; rfl
@[simp] theorem State.raise_snapshot (s : State) (e : CoreError) :
    (s.raise e).snapshot = { s.snapshot with err := e.code } := rfl

/-- Two states with the same commands and draw counter take the same keypad sample. -/
theorem State.keysIn_congr {s t : State} (hp : t.pending = s.pending) (hd : t.keyDraws = s.keyDraws) :
    t.keysIn = s.keysIn := by
  simp [State.keysIn, hp, hd]

/-- Every error code a step can latch is nonzero. -/
theorem CoreError.code_ne_zero (e : CoreError) : e.code ≠ 0 := by cases e <;> decide

end Sys2Proof.Machine
end

