-- ==== Sys2Proof/Laws/Display.lean ====
section
/-! SUPPORT. DISP: what toggling a pixel, drawing a row and drawing a sprite do to every pixel and to the collision (46_display R310 to R314). -/

namespace Sys2Proof.Machine

/-- Two pixels of the grid share a place on the read port only if they are the same pixel. -/
theorem pixelIndex_inj {px py qx qy : Nat} (hp : px < 64) (hq : qx < 64)
    (h : pixelIndex px py = pixelIndex qx qy) : px = qx ∧ py = qy := by
  unfold pixelIndex displayW at h
  omega

/-- The pixel of the grid lies on the read port. -/
theorem pixelIndex_lt {px py : Nat} (hp : px < 64) (hy : py < 32) : pixelIndex px py < 2048 := by
  unfold pixelIndex displayW
  omega

/-- Toggling a pixel flips it and no other one. -/
theorem Display.pixel_toggle (d : Display) {px py qx qy : Nat} (hp : px < 64) (hy : py < 32) (hq : qx < 64) :
    (d.toggle px py).pixel qx qy = (d.pixel qx qy != decide (qx = px ∧ qy = py)) := by
  have hlt := pixelIndex_lt hp hy
  have hiff : pixelIndex px py = pixelIndex qx qy ↔ qx = px ∧ qy = py :=
    ⟨fun h => let ⟨a, b⟩ := pixelIndex_inj hp hq h; ⟨a.symm, b.symm⟩, fun ⟨a, b⟩ => by rw [a, b]⟩
  unfold Display.pixel Display.toggle
  rw [BitVec.getLsbD_xor, BitVec.getLsbD_twoPow, decide_eq_true hlt, Bool.true_and, decide_eq_decide.2 hiff, Bool.bne_eq_xor]

@[simp] theorem plotPixel_disp (c : Canvas) (px py : Nat) : (plotPixel c px py).disp = c.disp.toggle px py := rfl
@[simp] theorem plotPixel_hit (c : Canvas) (px py : Nat) :
    (plotPixel c px py).hit = (c.hit || c.disp.pixel px py) := rfl

/-- The column offset of pixel column `px` in a sprite row starting at `x0`, with wraparound. -/
def colOffset (x0 px : Nat) : Nat := (px + displayW - x0 % displayW) % displayW

/-- The row offset of pixel row `py` in a sprite starting at row `y0`, with wraparound. -/
def rowOffset (y0 py : Nat) : Nat := (py + displayH - y0 % displayH) % displayH

/-- Offsets and places correspond: column `px` has offset `k` exactly if it is the `k`-th column from `x0`. -/
theorem colOffset_eq_iff {x0 px k : Nat} (hp : px < 64) (hk : k < 64) :
    px = (x0 + k) % displayW ↔ colOffset x0 px = k := by
  unfold colOffset displayW
  omega

/-- Offsets and places correspond: row `py` has offset `r` exactly if it is the `r`-th row from `y0`. -/
theorem rowOffset_eq_iff {y0 py r : Nat} (hp : py < 32) (hr : r < 32) :
    py = (y0 + r) % displayH ↔ rowOffset y0 py = r := by
  unfold rowOffset displayH
  omega

/-- What plotting the first `m` columns of a row byte does: the pixels and the collision. -/
theorem drawRow_columns (b : Byte) (x0 y : Nat) (c : Canvas) (m : Nat) (hm : m ≤ 8) :
    let c' := (List.range m).foldl
      (fun c k => if b.getLsbD (7 - k) then plotPixel c ((x0 + k) % displayW) (y % displayH) else c) c
    (∀ px py, px < 64 → py < 32 → c'.disp.pixel px py =
      (c.disp.pixel px py != (decide (py = y % displayH) && decide (colOffset x0 px < m) && b.getLsbD (7 - colOffset x0 px)))) ∧
    (c'.hit = true ↔ c.hit = true ∨ ∃ k, k < m ∧ b.getLsbD (7 - k) = true ∧
      c.disp.pixel ((x0 + k) % displayW) (y % displayH) = true) := by
  induction m with
  | zero => simp
  | succ m ih =>
    obtain ⟨ihp, ihh⟩ := ih (by omega)
    rw [List.range_succ, List.foldl_append, List.foldl_cons, List.foldl_nil]
    generalize (List.range m).foldl
      (fun c k => if b.getLsbD (7 - k) then plotPixel c ((x0 + k) % displayW) (y % displayH) else c) c = c1 at ihp ihh ⊢
    have hx : (x0 + m) % displayW < 64 := by unfold displayW; omega
    have hy : y % displayH < 32 := by unfold displayH; omega
    by_cases hb : b.getLsbD (7 - m) = true
    · simp only [if_pos hb]
      constructor
      · intro px py hpx hpy
        rw [plotPixel_disp, Display.pixel_toggle _ hx hy hpx, ihp px py hpx hpy]
        have hc := colOffset_eq_iff (x0 := x0) hpx (show m < 64 by omega)
        by_cases hrow : py = y % displayH
        · by_cases hcol : colOffset x0 px = m
          · have h1 : ¬ colOffset x0 px < m := by omega
            have h2 : colOffset x0 px < m + 1 := by omega
            rw [hcol] at h1 h2 ⊢
            simp [hrow, hc.2 hcol, hb]
          · have h2 : colOffset x0 px < m + 1 ↔ colOffset x0 px < m := by omega
            have h3 : px ≠ (x0 + m) % displayW := fun e => hcol (hc.1 e)
            simp [hrow, h2, h3]
        · simp [hrow]
      · rw [plotPixel_hit]
        have hold := ihp _ _ hx hy
        have hcol : colOffset x0 ((x0 + m) % displayW) = m := (colOffset_eq_iff hx (by omega)).1 rfl
        rw [hcol] at hold
        simp only [Nat.lt_irrefl, decide_false, Bool.and_false, Bool.false_and, Bool.bne_false] at hold
        simp only [Bool.or_eq_true, ihh, hold]
        constructor
        · rintro ((h | ⟨k, hk, h⟩) | h)
          · exact Or.inl h
          · exact Or.inr ⟨k, by omega, h⟩
          · exact Or.inr ⟨m, by omega, hb, h⟩
        · rintro (h | ⟨k, hk, h⟩)
          · exact Or.inl (Or.inl h)
          · by_cases e : k = m
            · exact Or.inr (e ▸ h.2)
            · exact Or.inl (Or.inr ⟨k, by omega, h⟩)
    · simp only [if_neg hb]
      constructor
      · intro px py hpx hpy
        rw [ihp px py hpx hpy]
        by_cases hcol : colOffset x0 px = m
        · rw [hcol]; simp [Bool.eq_false_iff.2 hb]
        · have h2 : colOffset x0 px < m + 1 ↔ colOffset x0 px < m := by omega
          simp [h2]
      · rw [ihh]
        constructor
        · rintro (h | ⟨k, hk, h⟩)
          · exact Or.inl h
          · exact Or.inr ⟨k, by omega, h⟩
        · rintro (h | ⟨k, hk, h⟩)
          · exact Or.inl h
          · have e : k ≠ m := fun e => hb (e ▸ h.1)
            exact Or.inr ⟨k, by omega, h⟩

/-- What drawing the first `n` rows of a sprite does: each pixel toggles exactly if a set bit lands on it, and the collision says whether some set bit landed on a pixel that was on. -/
theorem drawSprite_spec (m : Memory) (base n x0 y0 : Nat) (d : Display) (hn : n ≤ 32) :
    (∀ px py, px < 64 → py < 32 → (drawSprite m base n x0 y0 d).disp.pixel px py =
      (d.pixel px py != spriteCovers m base n x0 y0 px py)) ∧
    ((drawSprite m base n x0 y0 d).hit = true ↔
      ∃ px py, px < 64 ∧ py < 32 ∧ d.pixel px py = true ∧ spriteCovers m base n x0 y0 px py = true) := by
  unfold drawSprite
  induction n with
  | zero => simp [spriteCovers, spriteBit]
  | succ n ih =>
    obtain ⟨ihp, ihh⟩ := ih (by omega)
    rw [List.range_succ, List.foldl_append, List.foldl_cons, List.foldl_nil]
    generalize hc : (List.range n).foldl
      (fun c r => drawRow (m.read (base + r)) x0 (y0 + r) c) { disp := d, hit := false } = c at ihp ihh ⊢
    obtain ⟨hp, hh⟩ := drawRow_columns (m.read (base + n)) x0 (y0 + n) c 8 (le_refl 8)
    have hrow : ∀ py, py < 32 → (py = (y0 + n) % displayH ↔ rowOffset y0 py = n) :=
      fun py h => rowOffset_eq_iff h (by omega)
    have hcov : ∀ k px py, spriteCovers m base k x0 y0 px py =
        (decide (rowOffset y0 py < k) && decide (colOffset x0 px < 8) &&
          (m.read (base + rowOffset y0 py)).getLsbD (7 - colOffset x0 px)) := fun _ _ _ => rfl
    have hcov' : ∀ px py, px < 64 → py < 32 → spriteCovers m base (n + 1) x0 y0 px py =
        (spriteCovers m base n x0 y0 px py != (decide (py = (y0 + n) % displayH) && decide (colOffset x0 px < 8) &&
          (m.read (base + n)).getLsbD (7 - colOffset x0 px))) := by
      intro px py _ hpy
      rw [hcov, hcov]
      by_cases h : rowOffset y0 py = n
      · have e := (hrow py hpy).2 h
        rw [h]; simp [e]
      · have e : py ≠ (y0 + n) % displayH := fun e => h ((hrow py hpy).1 e)
        have h2 : rowOffset y0 py < n + 1 ↔ rowOffset y0 py < n := by omega
        simp [e, h2]
    constructor
    · intro px py hpx hpy
      have := hp px py hpx hpy
      unfold drawRow
      rw [this, ihp px py hpx hpy, hcov' px py hpx hpy, Bool.bne_assoc]
    · unfold drawRow
      rw [hh, ihh]
      constructor
      · rintro (⟨px, py, hpx, hpy, hd, hs⟩ | ⟨k, hk, hb, hd⟩)
        · refine ⟨px, py, hpx, hpy, hd, ?_⟩
          rw [hcov] at hs ⊢
          simp only [Bool.and_eq_true, decide_eq_true_eq] at hs ⊢
          exact ⟨⟨by omega, hs.1.2⟩, hs.2⟩
        · have hx : (x0 + k) % displayW < 64 := by unfold displayW; omega
          have hy : (y0 + n) % displayH < 32 := by unfold displayH; omega
          have hr : rowOffset y0 ((y0 + n) % displayH) = n := (hrow _ hy).1 rfl
          have hk' : colOffset x0 ((x0 + k) % displayW) = k := (colOffset_eq_iff hx (by omega)).1 rfl
          rw [ihp _ _ hx hy, hcov, hr] at hd
          simp only [Nat.lt_irrefl, decide_false, Bool.false_and, Bool.bne_false] at hd
          refine ⟨_, _, hx, hy, hd, ?_⟩
          rw [hcov, hr, hk']
          simp [hk, hb]
      · rintro ⟨px, py, hpx, hpy, hd, hs⟩
        by_cases h : rowOffset y0 py = n
        · rw [hcov, h] at hs
          simp only [Bool.and_eq_true, decide_eq_true_eq] at hs
          have ex := (colOffset_eq_iff (x0 := x0) hpx (show colOffset x0 px < 64 by omega)).2 rfl
          have ey := (hrow py hpy).2 h
          refine Or.inr ⟨colOffset x0 px, hs.1.2, hs.2, ?_⟩
          rw [← ex, ← ey, ihp px py hpx hpy, hcov, h]
          simp [hd]
        · refine Or.inl ⟨px, py, hpx, hpy, hd, ?_⟩
          rw [hcov] at hs ⊢
          simp only [Bool.and_eq_true, decide_eq_true_eq] at hs ⊢
          exact ⟨⟨by omega, hs.1.2⟩, hs.2⟩

/-- Two displays that show the same pixels are the same. -/
theorem Display.ext_pixels {d e : Display} (h : ∀ px py, px < 64 → py < 32 → d.pixel px py = e.pixel px py) :
    d = e := by
  apply BitVec.eq_of_getLsbD_eq
  intro k hk
  have := h (k % 64) (k / 64) (by omega) (by omega)
  unfold Display.pixel pixelIndex displayW at this
  rwa [show k / 64 * 64 + k % 64 = k by omega] at this

end Sys2Proof.Machine
end

