-- ==== Sys2Proof/Laws/Encoding.lean ====
section
/-! SUPPORT. Bits and fields of words built from the three formats of 30_encoding R103, and words rebuilt from their fields. -/

namespace Sys2Proof

/-- The bits of a word of format `A`. -/
theorem getLsbD_formatA (op : BitVec 4) (nnn : Addr12) (k : Nat) :
    (formatA op nnn).getLsbD k = if k < 12 then nnn.getLsbD k else op.getLsbD (k - 12) :=
  BitVec.getLsbD_append

/-- The bits of a word of format `XI`. -/
theorem getLsbD_formatXI (op : BitVec 4) (x : RegIdx) (nn : Byte) (k : Nat) :
    (formatXI op x nn).getLsbD k =
      if k < 8 then nn.getLsbD k else if k - 8 < 4 then x.getLsbD (k - 8) else op.getLsbD (k - 8 - 4) := by
  refine Eq.trans (BitVec.getLsbD_append (x := op ++ x) (y := nn)) ?_
  rw [BitVec.getLsbD_append]

/-- The bits of a word of format `XY`. -/
theorem getLsbD_formatXY (op : BitVec 4) (x y : RegIdx) (n : BitVec 4) (k : Nat) :
    (formatXY op x y n).getLsbD k =
      if k < 4 then n.getLsbD k else if k - 4 < 4 then y.getLsbD (k - 4)
      else if k - 4 - 4 < 4 then x.getLsbD (k - 4 - 4) else op.getLsbD (k - 4 - 4 - 4) := by
  refine Eq.trans (BitVec.getLsbD_append (x := op ++ x ++ y) (y := n)) ?_
  rw [BitVec.getLsbD_append, BitVec.getLsbD_append]

/-- The bits of a word of two bytes. -/
theorem getLsbD_wordOfBytes (hi lo : Byte) (k : Nat) :
    (wordOfBytes hi lo).getLsbD k = if k < 8 then lo.getLsbD k else hi.getLsbD (k - 8) :=
  BitVec.getLsbD_append

@[simp] theorem fieldOp_formatA (op : BitVec 4) (nnn : Addr12) : fieldOp (formatA op nnn) = op := by
  apply BitVec.eq_of_getLsbD_eq; intro k hk
  simp [fieldOp, getLsbD_formatA, hk]
@[simp] theorem fieldNNN_formatA (op : BitVec 4) (nnn : Addr12) : fieldNNN (formatA op nnn) = nnn := by
  apply BitVec.eq_of_getLsbD_eq; intro k hk
  simp [fieldNNN, getLsbD_formatA, hk]
@[simp] theorem fieldOp_formatXI (op : BitVec 4) (x : RegIdx) (nn : Byte) : fieldOp (formatXI op x nn) = op := by
  apply BitVec.eq_of_getLsbD_eq; intro k hk
  simp only [fieldOp, BitVec.getLsbD_extractLsb', getLsbD_formatXI, hk]
  rw [if_neg (by omega), if_neg (by omega), show 12 + k - 8 - 4 = k by omega]; simp
@[simp] theorem fieldX_formatXI (op : BitVec 4) (x : RegIdx) (nn : Byte) : fieldX (formatXI op x nn) = x := by
  apply BitVec.eq_of_getLsbD_eq; intro k hk
  simp only [fieldX, BitVec.getLsbD_extractLsb', getLsbD_formatXI, hk]
  rw [if_neg (by omega), if_pos (by omega), show 8 + k - 8 = k by omega]; simp
@[simp] theorem fieldNN_formatXI (op : BitVec 4) (x : RegIdx) (nn : Byte) : fieldNN (formatXI op x nn) = nn := by
  apply BitVec.eq_of_getLsbD_eq; intro k hk
  simp only [fieldNN, BitVec.getLsbD_extractLsb', getLsbD_formatXI, hk]
  rw [if_pos (by omega), Nat.zero_add]; simp
@[simp] theorem fieldOp_formatXY (op : BitVec 4) (x y : RegIdx) (n : BitVec 4) : fieldOp (formatXY op x y n) = op := by
  apply BitVec.eq_of_getLsbD_eq; intro k hk
  simp only [fieldOp, BitVec.getLsbD_extractLsb', getLsbD_formatXY, hk]
  rw [if_neg (by omega), if_neg (by omega), if_neg (by omega), show 12 + k - 4 - 4 - 4 = k by omega]; simp
@[simp] theorem fieldX_formatXY (op : BitVec 4) (x y : RegIdx) (n : BitVec 4) : fieldX (formatXY op x y n) = x := by
  apply BitVec.eq_of_getLsbD_eq; intro k hk
  simp only [fieldX, BitVec.getLsbD_extractLsb', getLsbD_formatXY, hk]
  rw [if_neg (by omega), if_neg (by omega), if_pos (by omega), show 8 + k - 4 - 4 = k by omega]; simp
@[simp] theorem fieldY_formatXY (op : BitVec 4) (x y : RegIdx) (n : BitVec 4) : fieldY (formatXY op x y n) = y := by
  apply BitVec.eq_of_getLsbD_eq; intro k hk
  simp only [fieldY, BitVec.getLsbD_extractLsb', getLsbD_formatXY, hk]
  rw [if_neg (by omega), if_pos (by omega), show 4 + k - 4 = k by omega]; simp
@[simp] theorem fieldN_formatXY (op : BitVec 4) (x y : RegIdx) (n : BitVec 4) : fieldN (formatXY op x y n) = n := by
  apply BitVec.eq_of_getLsbD_eq; intro k hk
  simp only [fieldN, BitVec.getLsbD_extractLsb', getLsbD_formatXY, hk]
  rw [if_pos (by omega), Nat.zero_add]; simp

/-- A word is its family nibble and its address field (30_encoding R109). -/
theorem word_eq_formatA (w : Word) : w = formatA (fieldOp w) (fieldNNN w) := by
  apply BitVec.eq_of_getLsbD_eq; intro k hk
  rw [getLsbD_formatA]
  simp only [fieldOp, fieldNNN, BitVec.getLsbD_extractLsb']
  by_cases h : k < 12
  · simp [h]
  · rw [if_neg h, show 12 + (k - 12) = k by omega, decide_eq_true (show k - 12 < 4 by omega), Bool.true_and]

/-- A word is its family nibble, its X field and its byte (30_encoding R109). -/
theorem word_eq_formatXI (w : Word) : w = formatXI (fieldOp w) (fieldX w) (fieldNN w) := by
  apply BitVec.eq_of_getLsbD_eq; intro k hk
  rw [getLsbD_formatXI]
  simp only [fieldOp, fieldX, fieldNN, BitVec.getLsbD_extractLsb']
  by_cases h : k < 8
  · simp [h]
  · rw [if_neg h]
    by_cases h' : k - 8 < 4
    · rw [if_pos h', show 8 + (k - 8) = k by omega, decide_eq_true h', Bool.true_and]
    · rw [if_neg h', show 12 + (k - 8 - 4) = k by omega, decide_eq_true (show k - 8 - 4 < 4 by omega), Bool.true_and]

/-- A word is its family nibble, its X and Y fields and its trailing nibble (30_encoding R109). -/
theorem word_eq_formatXY (w : Word) : w = formatXY (fieldOp w) (fieldX w) (fieldY w) (fieldN w) := by
  apply BitVec.eq_of_getLsbD_eq; intro k hk
  rw [getLsbD_formatXY]
  simp only [fieldOp, fieldX, fieldY, fieldN, BitVec.getLsbD_extractLsb']
  by_cases h : k < 4
  · simp [h]
  · rw [if_neg h]
    by_cases h' : k - 4 < 4
    · rw [if_pos h', show 4 + (k - 4) = k by omega, decide_eq_true h', Bool.true_and]
    · rw [if_neg h']
      by_cases h'' : k - 4 - 4 < 4
      · rw [if_pos h'', show 8 + (k - 4 - 4) = k by omega, decide_eq_true h'', Bool.true_and]
      · rw [if_neg h'', show 12 + (k - 4 - 4 - 4) = k by omega,
          decide_eq_true (show k - 4 - 4 - 4 < 4 by omega), Bool.true_and]

/-- The two bytes of a word, put back together, are the word (20_memory R72). -/
theorem wordOfBytes_bytesOfWord (w : Word) : wordOfBytes (bytesOfWord w).1 (bytesOfWord w).2 = w := by
  apply BitVec.eq_of_getLsbD_eq; intro k hk
  rw [getLsbD_wordOfBytes]
  simp only [bytesOfWord, BitVec.getLsbD_extractLsb']
  by_cases h : k < 8
  · simp [h]
  · rw [if_neg h, show 8 + (k - 8) = k by omega, decide_eq_true (show k - 8 < 8 by omega), Bool.true_and]

end Sys2Proof
end

