-- ==== Sys2Proof/Laws/Memory.lean ====
section
/-! SUPPORT. MEM: a read after a write, the canonical form, and loading a run of bytes (20_memory R71, R81). -/

namespace Sys2Proof.Machine

/-- Reading through a cell that may have been left out of the list because it holds the reset contents. -/
theorem Memory.read_consCell (m : Memory) (a k : Nat) (b : Byte) (h : k = a → m.read a = Memory.background a) :
    (Memory.consCell a b m).read k = if k = a then b else m.read k := by
  unfold Memory.consCell
  by_cases hk : k = a
  · subst hk
    by_cases hb : b = Memory.background k
    · simp [hb, h rfl]
    · simp [hb, Memory.read]
  · by_cases hb : b = Memory.background a
    · simp [hb, hk]
    · have hak : a ≠ k := fun e => hk e.symm
      simp [hb, hk, Memory.read, hak]

/-- A byte no cell lists reads as the reset contents. -/
theorem Memory.read_of_lt (m : Memory) (a : Nat) (h : ∀ c ∈ m, a < c.1) : m.read a = Memory.background a := by
  induction m with
  | nil => rfl
  | cons c m ih =>
    have hc := h c (by simp)
    have : c.1 ≠ a := by omega
    simp [Memory.read, this, ih (fun d hd => h d (by simp [hd]))]

/-- A read after a write, in a memory whose addresses strictly rise: the written byte there, the old byte elsewhere. -/
theorem Memory.read_write_sorted (m : Memory) (a k : Nat) (b : Byte) (h : m.Pairwise (fun c d => c.1 < d.1)) :
    (m.write a b).read k = if k = a then b else m.read k := by
  induction m with
  | nil => exact Memory.read_consCell [] a k b (fun _ => rfl)
  | cons c m ih =>
    rw [List.pairwise_cons] at h
    unfold Memory.write
    by_cases h1 : a < c.1
    · rw [if_pos h1]
      refine Memory.read_consCell (c :: m) a k b (fun _ => Memory.read_of_lt _ _ ?_)
      intro d hd
      rcases List.mem_cons.1 hd with rfl | hd
      · exact h1
      · exact lt_trans h1 (h.1 d hd)
    · rw [if_neg h1]
      by_cases h2 : c.1 = a
      · rw [if_pos h2, Memory.read_consCell m a k b (fun _ => Memory.read_of_lt _ _ (fun d hd => h2 ▸ h.1 d hd))]
        by_cases hk : k = a
        · simp [hk]
        · have : c.1 ≠ k := fun e => hk (e.symm.trans h2)
          simp [hk, Memory.read, this]
      · rw [if_neg h2]
        by_cases hk : c.1 = k
        · have : k ≠ a := fun e => h2 (hk.trans e)
          simp [Memory.read, hk, this]
        · simp [Memory.read, hk, ih h.2]

/-- A read after a write (20_memory R81). -/
theorem Memory.read_write (m : Memory) (a k : Nat) (b : Byte) (h : m.wf) :
    (m.write a b).read k = if k = a then b else m.read k :=
  Memory.read_write_sorted m a k b h.1

/-- Every cell of a memory after a write is an old cell or the written one, which is listed only if it differs from the reset contents. -/
theorem Memory.mem_write (m : Memory) (a : Nat) (b : Byte) (c : Host.Cell) (h : c ∈ m.write a b) :
    c ∈ m ∨ (c = (a, b) ∧ b ≠ Memory.background a) := by
  have hcons : ∀ (m' : Memory), c ∈ Memory.consCell a b m' → c ∈ m' ∨ (c = (a, b) ∧ b ≠ Memory.background a) := by
    intro m' h'
    unfold Memory.consCell at h'
    split at h'
    · exact Or.inl h'
    · next hb =>
      rcases List.mem_cons.1 h' with rfl | h'
      · exact Or.inr ⟨rfl, hb⟩
      · exact Or.inl h'
  induction m with
  | nil => exact hcons [] h
  | cons d m ih =>
    unfold Memory.write at h
    split at h
    · exact hcons _ h
    · split at h
      · rcases hcons _ h with h | h
        · exact Or.inl (List.mem_cons_of_mem _ h)
        · exact Or.inr h
      · rcases List.mem_cons.1 h with rfl | h
        · exact Or.inl (by simp)
        · rcases ih h with h | h
          · exact Or.inl (List.mem_cons_of_mem _ h)
          · exact Or.inr h

/-- A write keeps the addresses strictly rising. -/
theorem Memory.write_sorted (m : Memory) (a : Nat) (b : Byte) (h : m.Pairwise (fun c d => c.1 < d.1)) :
    (m.write a b).Pairwise (fun c d => c.1 < d.1) := by
  have hcons : ∀ m' : Memory, m'.Pairwise (fun c d => c.1 < d.1) → (∀ c ∈ m', a < c.1) →
      (Memory.consCell a b m').Pairwise (fun c d => c.1 < d.1) := by
    intro m' hm hlt
    unfold Memory.consCell
    split
    · exact hm
    · exact List.pairwise_cons.2 ⟨hlt, hm⟩
  induction m with
  | nil => exact hcons [] List.Pairwise.nil (by simp)
  | cons c m ih =>
    have hc := List.pairwise_cons.1 h
    unfold Memory.write
    split
    · next h1 =>
      refine hcons _ h ?_
      intro d hd
      rcases List.mem_cons.1 hd with rfl | hd
      · exact h1
      · exact lt_trans h1 (hc.1 d hd)
    · next h1 =>
      split
      · next h2 => exact hcons _ hc.2 (fun d hd => h2 ▸ hc.1 d hd)
      · next h2 =>
        refine List.pairwise_cons.2 ⟨fun d hd => ?_, ih hc.2⟩
        rcases Memory.mem_write m a b d hd with hd | ⟨rfl, -⟩
        · exact hc.1 d hd
        · show c.1 < a
          omega

/-- A write inside MEM keeps the canonical form. -/
theorem Memory.write_wf (m : Memory) (a : Nat) (b : Byte) (h : m.wf) (ha : a < memSize) : (m.write a b).wf := by
  refine ⟨Memory.write_sorted m a b h.1, fun c hc => ?_⟩
  rcases Memory.mem_write m a b c hc with hc | ⟨rfl, hb⟩
  · exact h.2 c hc
  · exact ⟨ha, hb⟩

/-- The empty list, the reset contents, is in canonical form. -/
theorem Memory.nil_wf : Memory.wf [] := ⟨List.Pairwise.nil, by simp⟩

/-- Loading bytes keeps the addresses strictly rising. -/
theorem Memory.load_sorted (bs : List Byte) (a : Nat) (m : Memory) (h : m.Pairwise (fun c d => c.1 < d.1)) :
    (Memory.load bs a m).Pairwise (fun c d => c.1 < d.1) := by
  induction bs generalizing a m with
  | nil => exact h
  | cons b bs ih => exact ih (a + 1) (m.write a b) (Memory.write_sorted m a b h)

/-- Loading bytes inside MEM keeps the canonical form. -/
theorem Memory.load_wf (bs : List Byte) (a : Nat) (m : Memory) (h : m.wf) (ha : a + bs.length ≤ memSize) :
    (Memory.load bs a m).wf := by
  induction bs generalizing a m with
  | nil => exact h
  | cons b bs ih =>
    simp only [List.length_cons] at ha
    exact ih (a + 1) (m.write a b) (Memory.write_wf m a b h (by omega)) (by omega)

/-- What loading bytes leaves at every address: the bytes in order from `a`, and the old contents elsewhere (20_memory R71). -/
theorem Memory.read_load (bs : List Byte) (a k : Nat) (m : Memory) (h : m.Pairwise (fun c d => c.1 < d.1)) :
    (Memory.load bs a m).read k = if a ≤ k ∧ k < a + bs.length then bs.getD (k - a) 0 else m.read k := by
  induction bs generalizing a m with
  | nil =>
    have : ¬ (a ≤ k ∧ k < a + 0) := by omega
    simp [Memory.load]
  | cons b bs ih =>
    rw [Memory.load, ih (a + 1) _ (Memory.write_sorted m a b h), Memory.read_write_sorted m a k b h]
    simp only [List.length_cons]
    by_cases hk : k = a
    · subst hk
      rw [if_neg (by omega), if_pos rfl, if_pos (by omega)]
      simp
    · by_cases hin : a + 1 ≤ k ∧ k < a + 1 + bs.length
      · rw [if_pos hin, if_pos (by omega), show k - a = (k - (a + 1)) + 1 by omega, List.getD_cons_succ]
      · rw [if_neg hin, if_neg hk, if_neg (by omega)]

/-- Bytes outside a loaded run read as before, in any memory whose addresses strictly rise. -/
theorem Memory.read_load_outside (bs : List Byte) (a k : Nat) (m : Memory)
    (h : m.Pairwise (fun c d => c.1 < d.1)) (hk : k < a ∨ a + bs.length ≤ k) :
    (Memory.load bs a m).read k = m.read k := by
  rw [Memory.read_load bs a k m h, if_neg (by omega)]

/-- The bounds check, as numbers (20_memory R74, R75). -/
theorem rangeInMemory_iff (base len : Nat) : rangeInMemory base len = true ↔ len = 0 ∨ base + len ≤ 4096 := by
  unfold rangeInMemory memSize; simp

/-- The reset contents: the spec's font from address 0, then zeros (10_state R48). -/
theorem Memory.background_eq (a : Nat) : Memory.background a = specFontData[a]?.getD 0 := by
  simp [Memory.background, specFontBase]

/-- The font bytes of the parameters, by their place in the font. -/
theorem fontData_getD (p : Params) (j : Nat) (h : j < 80) : p.fontData.toList.getD j 0 = p.fontData[j] := by
  rw [List.getD_eq_getElem _ _ (by simpa using h), Vector.getElem_toList]

/-- Cleared memory is in canonical form. -/
theorem Memory.zeroed_wf : Memory.zeroed.wf := Memory.load_wf _ _ _ Memory.nil_wf (by decide)

/-- Every byte of cleared memory is 0 (70_reset R450). -/
@[simp] theorem Memory.read_zeroed (a : Nat) : Memory.zeroed.read a = 0 := by
  unfold Memory.zeroed
  rw [Memory.read_load _ _ _ _ Memory.nil_wf.1, List.length_replicate]
  by_cases h : specFontBase.val ≤ a ∧ a < specFontBase.val + 80
  · rw [if_pos h, List.getD_replicate _ (by omega)]
  · rw [if_neg h]
    have h80 : 80 ≤ a := by simp [specFontBase] at h; exact h
    show Memory.background a = 0
    rw [Memory.background_eq, Vector.getElem?_eq_none h80]
    rfl

/-- Memory with the font loaded is in canonical form. -/
theorem Memory.withFont_wf (p : Params) : (Memory.withFont p).wf :=
  Memory.load_wf _ _ _ Memory.zeroed_wf (by rw [Vector.length_toList]; unfold memSize; omega)

/-- What memory holds when the font is loaded: `FONT_DATA` at `FONT_BASE`, and 0 elsewhere (10_state R48). -/
theorem Memory.read_withFont (p : Params) (a : Nat) : (Memory.withFont p).read a =
    if p.fontBase.val ≤ a ∧ a < p.fontBase.val + 80 then p.fontData[a - p.fontBase.val]?.getD 0 else 0 := by
  unfold Memory.withFont
  rw [Memory.read_load _ _ _ _ Memory.zeroed_wf.1, Vector.length_toList, Memory.read_zeroed]
  split
  · next h =>
    have hj : a - p.fontBase.val < 80 := by omega
    rw [fontData_getD p _ hj, Vector.getElem?_eq_getElem hj]
    rfl
  · rfl

/-- With the spec's font nothing differs from the reset contents. -/
theorem Memory.withFont_specParams : Memory.withFont specParams = [] := by decide +kernel

end Sys2Proof.Machine
end

