-- ==== Sys2Proof/Laws/Registers.lean ====
section
/-! SUPPORT. Reading V registers back through every update (10_state R31, R34). -/

namespace Sys2Proof.Machine

/-- A register reads back what was written to it. -/
@[simp] theorem State.readV_writeV_self (s : State) (x : RegIdx) (b : Byte) : (s.writeV x b).readV x = b := by
  simp [State.readV, State.writeV]

/-- Writing one register leaves every other one alone. -/
theorem State.readV_writeV_of_ne (s : State) {x k : RegIdx} (b : Byte) (h : k ≠ x) :
    (s.writeV x b).readV k = s.readV k := by
  have hne : x.toNat ≠ k.toNat := fun e => h (BitVec.eq_of_toNat_eq e.symm)
  simp [State.readV, State.writeV, hne]

/-- Both cases of reading a register after a write. -/
theorem State.readV_writeV (s : State) (x k : RegIdx) (b : Byte) :
    (s.writeV x b).readV k = if k = x then b else s.readV k := by
  split
  · next h => subst h; simp
  · next h => exact s.readV_writeV_of_ne b h

@[simp] theorem State.readV_jumpTo (s : State) (a : Word) (k : RegIdx) : (s.jumpTo a).readV k = s.readV k := rfl
@[simp] theorem State.readV_advance (s : State) (k : RegIdx) : s.advance.readV k = s.readV k := rfl
@[simp] theorem State.readV_skipIf (s : State) (c : Bool) (k : RegIdx) : (s.skipIf c).readV k = s.readV k := rfl
@[simp] theorem State.readV_setI (s : State) (a : Word) (k : RegIdx) : (s.setI a).readV k = s.readV k := rfl
@[simp] theorem State.readV_storeBytes (s : State) (a : Nat) (bs : List Byte) (k : RegIdx) :
    (s.storeBytes a bs).readV k = s.readV k := rfl
@[simp] theorem State.readV_raise (s : State) (e : CoreError) (k : RegIdx) : (s.raise e).readV k = s.readV k := rfl
@[simp] theorem State.readV_setDisp (s : State) (d : Display) (k : RegIdx) : (s.setDisp d).readV k = s.readV k := rfl
@[simp] theorem State.readV_setDT (s : State) (b : Byte) (k : RegIdx) : (s.setDT b).readV k = s.readV k := rfl
@[simp] theorem State.readV_setST (s : State) (b : Byte) (k : RegIdx) : (s.setST b).readV k = s.readV k := rfl
@[simp] theorem State.readV_takeRnd (s : State) (k : RegIdx) : s.takeRnd.readV k = s.readV k := by
  simp [State.readV]

/-- VF after a flag write. -/
@[simp] theorem State.readV_writeFlag_vf (s : State) (f : Bool) : (s.writeFlag f).readV vfIdx = flagByte f := by
  simp [State.writeFlag]

/-- Any other register after a flag write. -/
theorem State.readV_writeFlag_of_ne (s : State) (f : Bool) {k : RegIdx} (h : k ≠ vfIdx) :
    (s.writeFlag f).readV k = s.readV k := s.readV_writeV_of_ne _ h

/-- The flag is written last: VF holds it, whatever X is (41_arithmetic R171). -/
@[simp] theorem State.readV_writeResultFlag_vf (s : State) (x : RegIdx) (r : Byte) (f : Bool) :
    (s.writeResultFlag x r f).readV vfIdx = flagByte f := by
  simp [State.writeResultFlag]

/-- The result stays where X is not F (41_arithmetic R171). -/
theorem State.readV_writeResultFlag_dest (s : State) {x : RegIdx} (r : Byte) (f : Bool) (h : x ≠ vfIdx) :
    (s.writeResultFlag x r f).readV x = r := by
  simp [State.writeResultFlag, State.readV_writeFlag_of_ne _ _ h]

/-- Every register besides X and VF is unchanged. -/
theorem State.readV_writeResultFlag_of_ne (s : State) {x k : RegIdx} (r : Byte) (f : Bool)
    (hx : k ≠ x) (hf : k ≠ vfIdx) : (s.writeResultFlag x r f).readV k = s.readV k := by
  simp [State.writeResultFlag, State.readV_writeFlag_of_ne _ _ hf, State.readV_writeV_of_ne _ _ hx]

/-- `loadRegs` reaches only the V registers. -/
theorem State.loadRegs_eq (s : State) (a n : Nat) : s.loadRegs a n = { s with v := (s.loadRegs a n).v } := by
  unfold State.loadRegs
  induction n with
  | zero => simp
  | succ n ih =>
    rw [List.range_succ, List.foldl_append, List.foldl_cons, List.foldl_nil]
    rw [ih]
    rfl

/-- What `loadRegs` leaves in each register: the first `n` hold the bytes from `a` (44_memory_index R266). -/
theorem State.readV_loadRegs (s : State) (a n : Nat) (hn : n ≤ 16) (k : RegIdx) :
    (s.loadRegs a n).readV k = if k.toNat < n then s.mem.read (a + k.toNat) else s.readV k := by
  unfold State.loadRegs
  induction n with
  | zero => simp
  | succ n ih =>
    rw [List.range_succ, List.foldl_append, List.foldl_cons, List.foldl_nil, State.readV_writeV,
      ih (by omega)]
    by_cases hk : k.toNat = n
    · have hkn : k = BitVec.ofNat 4 n := by rw [← hk]; simp
      rw [if_pos hkn, if_pos (by omega), hk]
    · have hkn : k ≠ BitVec.ofNat 4 n := by
        intro e
        apply hk
        rw [e, BitVec.toNat_ofNat, Nat.mod_eq_of_lt (by omega)]
      rw [if_neg hkn]
      have hiff : k.toNat < n + 1 ↔ k.toNat < n := by omega
      simp only [hiff]

end Sys2Proof.Machine
end

