-- ==== Sys2Proof/Laws/Operands.lean ====
section
/-! SUPPORT. What every operand form and every flag computation answers: one lemma each. -/

namespace Sys2Proof.Machine

/-- NNN as a 16-bit address keeps its value (30_encoding R104). -/
@[simp] theorem addrOperand_toNat (nnn : Addr12) : (addrOperand nnn).toNat = nnn.toNat := by
  unfold addrOperand
  rw [BitVec.toNat_setWidth]
  exact Nat.mod_eq_of_lt (by omega)

/-- The target of BNNN is the plain sum (43_jump_call_return R235). -/
@[simp] theorem offsetTarget_toNat (nnn : Addr12) (b : Byte) : (offsetTarget nnn b).toNat = nnn.toNat + b.toNat := by
  unfold offsetTarget
  rw [BitVec.toNat_ofNat]
  exact Nat.mod_eq_of_lt (by omega)

/-- The shift operand by `SHIFT_SOURCE` (41_arithmetic R179). -/
theorem State.shiftOperand_eq (s : State) (x y : RegIdx) :
    s.shiftOperand x y = if s.params.shiftSource = .vx then s.readV x else s.readV y := by
  unfold State.shiftOperand
  cases s.params.shiftSource <;> rfl

/-- The glyph address (44_memory_index R263). -/
@[simp] theorem State.fontAddress_toNat (s : State) (b : Byte) :
    (s.fontAddress b).toNat = s.params.fontBase.val + 5 * (b.toNat % 16) := by
  unfold State.fontAddress
  rw [BitVec.toNat_ofNat]
  exact Nat.mod_eq_of_lt (by omega)

/-- When a value names a pressed key (48_keypad R361). -/
theorem keyPressed_iff (keys : BitVec 16) (v : Byte) :
    keyPressed keys v = true ↔ v.toNat ≤ 0x0F ∧ keys.getLsbD v.toNat = true := by
  unfold keyPressed
  rw [Bool.and_eq_true, decide_eq_true_eq]

/-- A key is new exactly when it is pressed now and was not before (48_keypad R364). -/
theorem State.getLsbD_newKeys (s : State) (k : Nat) (hk : k < 16) :
    s.newKeys.getLsbD k = (s.keysIn.getLsbD k && !s.prevKeys.getLsbD k) := by
  simp [State.newKeys, newPresses, hk]

/-- Before a STEP the sample the next STEP takes is the sample of this one (10_state R62). -/
theorem State.nextSample_of_stepNext (s : State) (h : s.stepNext = true) : s.nextSample = s.keysIn := by
  unfold State.nextSample State.keysIn
  unfold State.stepNext at h
  cases hp : s.pending with
  | nil => rfl
  | cons c rest =>
    rw [hp] at h
    cases c with
    | step keys => rfl
    | tick => cases h
    | init image => cases h

/-- A command that is no STEP leaves the sample of the next STEP as it is, since it makes no draw. -/
theorem State.nextSample_of_cons (s t : State) (c : Command) (rest : List Command) (hc : c.isStep = false)
    (hs : s.pending = c :: rest) (ht : t.pending = rest) (hk : t.keyDraws = s.keyDraws) :
    t.nextSample = s.nextSample := by
  unfold State.nextSample
  rw [hs, ht, hk, List.find?_cons_of_neg (by simp [hc])]

/-- There is no lowest key exactly when no key is set (48_keypad R364). -/
theorem lowestKey_eq_none (keys : BitVec 16) :
    lowestKey keys = none ↔ ∀ k, k < 16 → keys.getLsbD k = false := by
  unfold lowestKey
  rw [List.find?_eq_none]
  simp

/-- The lowest key is the set one below which none is set (48_keypad R364). -/
theorem lowestKey_eq_some (keys : BitVec 16) (k : Nat) :
    lowestKey keys = some k ↔ k < 16 ∧ keys.getLsbD k = true ∧ ∀ j, j < k → keys.getLsbD j = false := by
  unfold lowestKey
  rw [List.find?_range_eq_some]
  simp only [List.mem_range, Bool.not_eq_true', and_left_comm]

/-- Three digits, whatever the byte (44_memory_index R264). -/
@[simp] theorem bcdDigits_length (b : Byte) : (bcdDigits b).length = 3 := rfl

/-- V0 to VX are X + 1 bytes (44_memory_index R265). -/
@[simp] theorem State.regBlock_length (s : State) (x : RegIdx) : (s.regBlock x).length = x.toNat + 1 := by
  simp [State.regBlock, blockLength]

/-- The k-th byte of the block is V[k] (44_memory_index R265). -/
theorem State.regBlock_getD (s : State) (x k : RegIdx) (h : k.toNat ≤ x.toNat) :
    (s.regBlock x).getD k.toNat 0 = s.readV k := by
  have : k.toNat < blockLength x := by unfold blockLength; omega
  simp [State.regBlock, List.getD, this]

/-- A flag is 1 exactly when it is set. -/
theorem flagByte_eq_one (f : Bool) : flagByte f = 1 ↔ f = true := by cases f <;> decide

/-- The two shifts by one and the bits they shift out, as numbers (41_arithmetic R180). -/
theorem shift_toNat : ∀ b : Byte,
    (b >>> 1).toNat = b.toNat / 2 ∧ (flagByte (shiftedOutRight b)).toNat = b.toNat % 2 ∧
    (b <<< 1).toNat = 2 * b.toNat % 256 ∧ (flagByte (shiftedOutLeft b)).toNat = b.toNat / 128 := by
  decide +kernel

/-- One tick of one timer, as a number (47_timers R345, R347). -/
theorem countDown_toNat : ∀ b : Byte, (countDown b).toNat = b.toNat - 1 := by decide +kernel

end Sys2Proof.Machine
end

