-- ==== Sys2Proof/Laws/PerInstr.lean ====
section
/-! SUPPORT. Statements made per instruction: the family OpcodeRow says that each instruction's word has the fixed bits its row of spec/opcode_table.json gives it. -/

namespace Sys2Proof.Laws.OpcodeRow

/-- The `mask` and `match` of the instruction's row of spec/opcode_table.json, copied from the table. -/
def row : Instr → Word × Word
  | .sys _ => (0xF000, 0x0000)
  | .cls => (0xFFFF, 0x00E0)
  | .ret => (0xFFFF, 0x00EE)
  | .jp _ => (0xF000, 0x1000)
  | .call _ => (0xF000, 0x2000)
  | .seByte _ _ => (0xF000, 0x3000)
  | .sneByte _ _ => (0xF000, 0x4000)
  | .seReg _ _ => (0xF00F, 0x5000)
  | .ldByte _ _ => (0xF000, 0x6000)
  | .addByte _ _ => (0xF000, 0x7000)
  | .ldReg _ _ => (0xF00F, 0x8000)
  | .or _ _ => (0xF00F, 0x8001)
  | .and _ _ => (0xF00F, 0x8002)
  | .xor _ _ => (0xF00F, 0x8003)
  | .addReg _ _ => (0xF00F, 0x8004)
  | .sub _ _ => (0xF00F, 0x8005)
  | .shr _ _ => (0xF00F, 0x8006)
  | .subn _ _ => (0xF00F, 0x8007)
  | .shl _ _ => (0xF00F, 0x800E)
  | .sneReg _ _ => (0xF00F, 0x9000)
  | .ldI _ => (0xF000, 0xA000)
  | .jpV0 _ => (0xF000, 0xB000)
  | .rnd _ _ => (0xF000, 0xC000)
  | .drw _ _ _ => (0xF000, 0xD000)
  | .skp _ => (0xF0FF, 0xE09E)
  | .sknp _ => (0xF0FF, 0xE0A1)
  | .ldVxDT _ => (0xF0FF, 0xF007)
  | .ldVxK _ => (0xF0FF, 0xF00A)
  | .ldDTVx _ => (0xF0FF, 0xF015)
  | .ldSTVx _ => (0xF0FF, 0xF018)
  | .addIVx _ => (0xF0FF, 0xF01E)
  | .ldFVx _ => (0xF0FF, 0xF029)
  | .ldBVx _ => (0xF0FF, 0xF033)
  | .ldMemVx _ => (0xF0FF, 0xF055)
  | .ldVxMem _ => (0xF0FF, 0xF065)

/-- The word of the instruction matches its row of the opcode table (30_encoding R106). -/
def Statement (i : Instr) : Prop := encode i &&& (row i).1 = (row i).2

/-- A word of format `A` under the mask of its family nibble. -/
theorem formatA_mask (op : BitVec 4) (nnn : Addr12) : formatA op nnn &&& 0xF000 = formatA op 0 := by
  apply BitVec.eq_of_getLsbD_eq; intro k hk
  rw [BitVec.getLsbD_and, getLsbD_formatA, getLsbD_formatA]
  interval_cases k <;> simp

/-- A word of format `XI` under the mask of its family nibble. -/
theorem formatXI_mask (op : BitVec 4) (x : RegIdx) (nn : Byte) : formatXI op x nn &&& 0xF000 = formatXI op 0 0 := by
  apply BitVec.eq_of_getLsbD_eq; intro k hk
  rw [BitVec.getLsbD_and, getLsbD_formatXI, getLsbD_formatXI]
  interval_cases k <;> simp

/-- A word of format `XS` under the mask of its family nibble and its byte. -/
theorem formatXS_mask (op : BitVec 4) (x : RegIdx) (nn : Byte) : formatXI op x nn &&& 0xF0FF = formatXI op 0 nn := by
  apply BitVec.eq_of_getLsbD_eq; intro k hk
  rw [BitVec.getLsbD_and, getLsbD_formatXI, getLsbD_formatXI]
  interval_cases k <;> simp

/-- A word of format `XY` under the mask of its family nibble and its trailing nibble. -/
theorem formatXY_mask (op : BitVec 4) (x y : RegIdx) (n : BitVec 4) : formatXY op x y n &&& 0xF00F = formatXY op 0 0 n := by
  apply BitVec.eq_of_getLsbD_eq; intro k hk
  rw [BitVec.getLsbD_and, getLsbD_formatXY, getLsbD_formatXY]
  interval_cases k <;> simp

/-- A word of format `XYN` under the mask of its family nibble. -/
theorem formatXYN_mask (op : BitVec 4) (x y : RegIdx) (n : BitVec 4) : formatXY op x y n &&& 0xF000 = formatXY op 0 0 0 := by
  apply BitVec.eq_of_getLsbD_eq; intro k hk
  rw [BitVec.getLsbD_and, getLsbD_formatXY, getLsbD_formatXY]
  interval_cases k <;> simp

theorem sys (nnn : Addr12) : Statement (.sys nnn) := (formatA_mask _ nnn).trans rfl
theorem cls : Statement (.cls) := by unfold Statement; decide
theorem ret : Statement (.ret) := by unfold Statement; decide
theorem jp (nnn : Addr12) : Statement (.jp nnn) := (formatA_mask _ nnn).trans rfl
theorem call (nnn : Addr12) : Statement (.call nnn) := (formatA_mask _ nnn).trans rfl
theorem seByte (x : RegIdx) (nn : Byte) : Statement (.seByte x nn) := (formatXI_mask _ x nn).trans rfl
theorem sneByte (x : RegIdx) (nn : Byte) : Statement (.sneByte x nn) := (formatXI_mask _ x nn).trans rfl
theorem seReg (x y : RegIdx) : Statement (.seReg x y) := (formatXY_mask _ x y _).trans rfl
theorem ldByte (x : RegIdx) (nn : Byte) : Statement (.ldByte x nn) := (formatXI_mask _ x nn).trans rfl
theorem addByte (x : RegIdx) (nn : Byte) : Statement (.addByte x nn) := (formatXI_mask _ x nn).trans rfl
theorem ldReg (x y : RegIdx) : Statement (.ldReg x y) := (formatXY_mask _ x y _).trans rfl
theorem or (x y : RegIdx) : Statement (.or x y) := (formatXY_mask _ x y _).trans rfl
theorem and (x y : RegIdx) : Statement (.and x y) := (formatXY_mask _ x y _).trans rfl
theorem xor (x y : RegIdx) : Statement (.xor x y) := (formatXY_mask _ x y _).trans rfl
theorem addReg (x y : RegIdx) : Statement (.addReg x y) := (formatXY_mask _ x y _).trans rfl
theorem sub (x y : RegIdx) : Statement (.sub x y) := (formatXY_mask _ x y _).trans rfl
theorem shr (x y : RegIdx) : Statement (.shr x y) := (formatXY_mask _ x y _).trans rfl
theorem subn (x y : RegIdx) : Statement (.subn x y) := (formatXY_mask _ x y _).trans rfl
theorem shl (x y : RegIdx) : Statement (.shl x y) := (formatXY_mask _ x y _).trans rfl
theorem sneReg (x y : RegIdx) : Statement (.sneReg x y) := (formatXY_mask _ x y _).trans rfl
theorem ldI (nnn : Addr12) : Statement (.ldI nnn) := (formatA_mask _ nnn).trans rfl
theorem jpV0 (nnn : Addr12) : Statement (.jpV0 nnn) := (formatA_mask _ nnn).trans rfl
theorem rnd (x : RegIdx) (nn : Byte) : Statement (.rnd x nn) := (formatXI_mask _ x nn).trans rfl
theorem drw (x y : RegIdx) (n : BitVec 4) : Statement (.drw x y n) := (formatXYN_mask _ x y n).trans rfl
theorem skp (x : RegIdx) : Statement (.skp x) := (formatXS_mask _ x _).trans rfl
theorem sknp (x : RegIdx) : Statement (.sknp x) := (formatXS_mask _ x _).trans rfl
theorem ldVxDT (x : RegIdx) : Statement (.ldVxDT x) := (formatXS_mask _ x _).trans rfl
theorem ldVxK (x : RegIdx) : Statement (.ldVxK x) := (formatXS_mask _ x _).trans rfl
theorem ldDTVx (x : RegIdx) : Statement (.ldDTVx x) := (formatXS_mask _ x _).trans rfl
theorem ldSTVx (x : RegIdx) : Statement (.ldSTVx x) := (formatXS_mask _ x _).trans rfl
theorem addIVx (x : RegIdx) : Statement (.addIVx x) := (formatXS_mask _ x _).trans rfl
theorem ldFVx (x : RegIdx) : Statement (.ldFVx x) := (formatXS_mask _ x _).trans rfl
theorem ldBVx (x : RegIdx) : Statement (.ldBVx x) := (formatXS_mask _ x _).trans rfl
theorem ldMemVx (x : RegIdx) : Statement (.ldMemVx x) := (formatXS_mask _ x _).trans rfl
theorem ldVxMem (x : RegIdx) : Statement (.ldVxMem x) := (formatXS_mask _ x _).trans rfl

end Sys2Proof.Laws.OpcodeRow
end

