-- ==== Sys2Proof/Laws/Stack.lean ====
section
/-! SUPPORT. The call stack: what a push and a pop do (43_jump_call_return R232, R233). -/

namespace Sys2Proof.Machine

/-- A push succeeds exactly where an entry is free, and then writes that entry and counts SP up. -/
theorem State.pushReturn_of_lt (s : State) (ret : Word) (h : s.sp.toNat < 16) :
    s.pushReturn ret = some { s with stack := s.stack.set s.sp.toNat ret h, sp := s.sp + 1 } := by
  simp [State.pushReturn, h]

/-- A push fails where SP names no entry. -/
theorem State.pushReturn_of_ge (s : State) (ret : Word) (h : 16 ≤ s.sp.toNat) : s.pushReturn ret = none := by
  simp [State.pushReturn, Nat.not_lt.2 h]

/-- SP after a push. -/
theorem State.sp_succ (s : State) (h : s.sp.toNat < 16) : (s.sp + 1).toNat = s.sp.toNat + 1 := by
  rw [BitVec.toNat_add]; simp; omega

/-- SP after a pop. -/
theorem State.sp_pred (s : State) (h : s.sp ≠ 0) : (s.sp - 1).toNat = s.sp.toNat - 1 := by
  have h0 : s.sp.toNat ≠ 0 := fun e => h (BitVec.eq_of_toNat_eq (by simpa using e))
  have hlt := s.sp.isLt
  rw [BitVec.toNat_sub]; simp; omega

/-- A pop succeeds exactly where SP - 1 names an entry, and then jumps there, the stack unchanged. -/
theorem State.popReturn_of_lt (s : State) (h : (s.sp - 1).toNat < 16) :
    s.popReturn = some { s with sp := s.sp - 1, pc := s.stack[(s.sp - 1).toNat] } := by
  unfold State.popReturn; rw [dif_pos h]

/-- A pop fails where SP - 1 names no entry. -/
theorem State.popReturn_of_ge (s : State) (h : 16 ≤ (s.sp - 1).toNat) : s.popReturn = none := by
  unfold State.popReturn; rw [dif_neg (Nat.not_lt.2 h)]

end Sys2Proof.Machine
end

