-- ==== Sys2Proof/Laws/Step.lean ====
section
/-! SUPPORT. What one step can do: exec never touches the host's side, and one inversion lemma for `step`, from which every invariant is derived. -/

namespace Sys2Proof.Machine

/-- A push that succeeds writes the entry at SP and counts SP up. -/
theorem State.pushReturn_eq_some (s t : State) (ret : Word) (h : s.pushReturn ret = some t) :
    ∃ hlt : s.sp.toNat < 16, t = { s with stack := s.stack.set s.sp.toNat ret hlt, sp := s.sp + 1 } := by
  by_cases hlt : s.sp.toNat < 16
  · rw [s.pushReturn_of_lt ret hlt] at h
    exact ⟨hlt, (Option.some.inj h).symm⟩
  · rw [s.pushReturn_of_ge ret (Nat.not_lt.1 hlt)] at h
    cases h

/-- A pop that succeeds counts SP down and jumps to the entry there. -/
theorem State.popReturn_eq_some (s t : State) (h : s.popReturn = some t) :
    ∃ hlt : (s.sp - 1).toNat < 16, t = { s with sp := s.sp - 1, pc := s.stack[(s.sp - 1).toNat] } := by
  by_cases hlt : (s.sp - 1).toNat < 16
  · rw [s.popReturn_of_lt hlt] at h
    exact ⟨hlt, (Option.some.inj h).symm⟩
  · rw [s.popReturn_of_ge (Nat.not_lt.1 hlt)] at h
    cases h

/-- What CALL can do (43_jump_call_return R232). -/
theorem execCall_next {nnn : Addr12} {s t : State} (h : execCall nnn s = .next t) :
    (s.sp = 16 ∧ t = s.raise .stackOverflow) ∨
    ∃ hlt : s.sp.toNat < 16,
      t = { s with stack := s.stack.set s.sp.toNat (s.pc + 2) hlt, sp := s.sp + 1, pc := addrOperand nnn } := by
  unfold execCall at h
  split at h
  · next h16 =>
    simp only [raiseError, Host.Outcome.next.injEq] at h
    exact Or.inl ⟨h16, h.symm⟩
  · split at h
    · next u hu =>
      obtain ⟨hlt, rfl⟩ := State.pushReturn_eq_some s u _ hu
      simp only [Host.Outcome.next.injEq] at h
      exact Or.inr ⟨hlt, h.symm⟩
    · cases h

/-- What RET can do (43_jump_call_return R233). -/
theorem execRet_next {s t : State} (h : execRet s = .next t) :
    (s.sp = 0 ∧ t = s.raise .stackUnderflow) ∨
    (s.sp ≠ 0 ∧ ∃ hlt : (s.sp - 1).toNat < 16, t = { s with sp := s.sp - 1, pc := s.stack[(s.sp - 1).toNat] }) := by
  unfold execRet at h
  split at h
  · next h0 =>
    simp only [raiseError, Host.Outcome.next.injEq] at h
    exact Or.inl ⟨h0, h.symm⟩
  · next h0 =>
    split at h
    · next u hu =>
      obtain ⟨hlt, rfl⟩ := State.popReturn_eq_some s u hu
      simp only [Host.Outcome.next.injEq] at h
      exact Or.inr ⟨h0, hlt, h.symm⟩
    · cases h

/-- What FX33 can do (44_memory_index R264). -/
theorem execLdBVx_next {x : RegIdx} {s t : State} (h : execLdBVx x s = .next t) :
    (s.i.toNat + 3 ≤ 4096 ∧ t = (s.storeBytes s.i.toNat (bcdDigits (s.readV x))).advance) ∨
    t = s.raise .outOfBounds := by
  unfold execLdBVx at h
  split at h
  · next hr =>
    have := (rangeInMemory_iff _ _).1 hr
    simp only [Host.Outcome.next.injEq] at h
    exact Or.inl ⟨by omega, h.symm⟩
  · simp only [raiseError, Host.Outcome.next.injEq] at h
    exact Or.inr h.symm

/-- What FX55 can do (44_memory_index R265). -/
theorem execLdMemVx_next {x : RegIdx} {s t : State} (h : execLdMemVx x s = .next t) :
    (s.i.toNat + (x.toNat + 1) ≤ 4096 ∧ t = (s.storeBytes s.i.toNat (s.regBlock x)).advance) ∨
    t = s.raise .outOfBounds := by
  unfold execLdMemVx at h
  split at h
  · next hr =>
    have := (rangeInMemory_iff _ _).1 hr
    simp only [blockLength] at this
    simp only [Host.Outcome.next.injEq] at h
    exact Or.inl ⟨by omega, h.symm⟩
  · simp only [raiseError, Host.Outcome.next.injEq] at h
    exact Or.inr h.symm

/-- What FX65 can do (44_memory_index R266). -/
theorem execLdVxMem_next {x : RegIdx} {s t : State} (h : execLdVxMem x s = .next t) :
    (s.i.toNat + (x.toNat + 1) ≤ 4096 ∧ t = (s.loadRegs s.i.toNat (x.toNat + 1)).advance) ∨
    t = s.raise .outOfBounds := by
  unfold execLdVxMem at h
  split at h
  · next hr =>
    have := (rangeInMemory_iff _ _).1 hr
    simp only [blockLength] at this
    simp only [Host.Outcome.next.injEq] at h
    exact Or.inl ⟨by omega, h.symm⟩
  · simp only [raiseError, Host.Outcome.next.injEq] at h
    exact Or.inr h.symm

/-- What DXYN can do (46_display R312). -/
theorem execDrw_next {x y : RegIdx} {n : BitVec 4} {s t : State} (h : execDrw x y n s = .next t) :
    (rangeInMemory s.i.toNat n.toNat = true ∧
      t = ((s.setDisp (s.sprite x y n).disp).writeFlag (s.sprite x y n).hit).advance) ∨
    t = s.raise .outOfBounds := by
  unfold execDrw at h
  split at h
  · next hr =>
    simp only [Host.Outcome.next.injEq] at h
    exact Or.inl ⟨hr, h.symm⟩
  · simp only [raiseError, Host.Outcome.next.injEq] at h
    exact Or.inr h.symm

/-- What SYS can do (49_legacy R391). -/
theorem execSys_next {nnn : Addr12} {s t : State} (h : execSys nnn s = .next t) :
    (s.params.sysPolicy = .unsupported ∧ t = s.raise .unsupported) ∨
    (s.params.sysPolicy = .nop ∧ t = s.advance) := by
  unfold execSys at h
  split at h
  · next hp =>
    simp only [raiseError, Host.Outcome.next.injEq] at h
    exact Or.inl ⟨hp, h.symm⟩
  · next hp =>
    simp only [Host.Outcome.next.injEq] at h
    exact Or.inr ⟨hp, h.symm⟩

@[simp] theorem State.loadRegs_advance_fields (s : State) (a n : Nat) :
    (s.loadRegs a n).advance = { s with v := (s.loadRegs a n).v, pc := s.pc + 2 } := by
  rw [State.loadRegs_eq s a n]; rfl

/-- The fields no instruction writes: the parameters, the commands with their draw counter and response, and PREV_KEYS, which only COMMIT writes (40_step_cycle R146). -/
theorem exec_keeps_outside {i : Instr} {s t : State} (h : exec i s = .next t) :
    t.params = s.params ∧ t.pending = s.pending ∧ t.keyDraws = s.keyDraws ∧ t.response = s.response ∧
      t.prevKeys = s.prevKeys := by
  cases i with
  | sys nnn => rcases execSys_next (nnn := nnn) h with ⟨-, rfl⟩ | ⟨-, rfl⟩ <;> simp
  | call nnn => rcases execCall_next h with ⟨-, rfl⟩ | ⟨-, rfl⟩ <;> simp
  | ret => rcases execRet_next h with ⟨-, rfl⟩ | ⟨-, -, rfl⟩ <;> simp
  | ldBVx x => rcases execLdBVx_next h with ⟨-, rfl⟩ | rfl <;> simp
  | ldMemVx x => rcases execLdMemVx_next h with ⟨-, rfl⟩ | rfl <;> simp
  | ldVxMem x => rcases execLdVxMem_next h with ⟨-, rfl⟩ | rfl <;> simp
  | drw x y n => rcases execDrw_next h with ⟨-, rfl⟩ | rfl <;> simp
  | _ => cases h; simp

/-- Where exec leaves ERR: untouched, or at the code of the error it raised, with nothing else written (60_exceptions R412). -/
theorem exec_err {i : Instr} {s t : State} (h : exec i s = .next t) :
    t.err = s.err ∨ ∃ e, e ∈ [CoreError.outOfBounds, .stackOverflow, .stackUnderflow, .unsupported] ∧ t = s.raise e := by
  cases i with
  | sys nnn => rcases execSys_next (nnn := nnn) h with ⟨-, rfl⟩ | ⟨-, rfl⟩ <;> simp
  | call nnn => rcases execCall_next h with ⟨-, rfl⟩ | ⟨-, rfl⟩ <;> simp
  | ret => rcases execRet_next h with ⟨-, rfl⟩ | ⟨-, -, rfl⟩ <;> simp
  | ldBVx x => rcases execLdBVx_next h with ⟨-, rfl⟩ | rfl <;> simp
  | ldMemVx x => rcases execLdMemVx_next h with ⟨-, rfl⟩ | rfl <;> simp
  | ldVxMem x => rcases execLdVxMem_next h with ⟨-, rfl⟩ | rfl <;> simp
  | drw x y n => rcases execDrw_next h with ⟨-, rfl⟩ | rfl <;> simp
  | _ => cases h; simp

/-- No arm of exec refuses. -/
theorem exec_not_refused (i : Instr) (s : State) (r : Refusal) : exec i s ≠ .refused r := by
  intro h
  cases i <;>
    simp only [exec, execSys, execCall, execRet, execLdBVx, execLdMemVx, execLdVxMem, execDrw, raiseError] at h <;>
    (first | cases h | (split at h <;> first | cases h | (split at h <;> cases h)))

/-- exec faults only in CALL and RET, and only where SP is above 16 (notes/assumptions/7.md). -/
theorem exec_fault {i : Instr} {s : State} {f : Fault} (h : exec i s = .fault f) : 16 < s.sp.toNat := by
  cases i with
  | call nnn =>
    simp only [exec, execCall] at h
    split at h
    · cases h
    · next h16 =>
      by_cases hlt : s.sp.toNat < 16
      · rw [s.pushReturn_of_lt _ hlt] at h; cases h
      · have hne : s.sp.toNat ≠ 16 := fun e => h16 (BitVec.eq_of_toNat_eq (by simpa using e))
        omega
  | ret =>
    simp only [exec, execRet] at h
    split at h
    · cases h
    · next h0 =>
      have hp := s.sp_pred h0
      by_cases hlt : (s.sp - 1).toNat < 16
      · rw [s.popReturn_of_lt hlt] at h; cases h
      · omega
  | sys nnn => simp only [exec, execSys, raiseError] at h; split at h <;> cases h
  | ldBVx x => simp only [exec, execLdBVx, raiseError] at h; split at h <;> cases h
  | ldMemVx x => simp only [exec, execLdMemVx, raiseError] at h; split at h <;> cases h
  | ldVxMem x => simp only [exec, execLdVxMem, raiseError] at h; split at h <;> cases h
  | drw x y n => simp only [exec, execDrw, raiseError] at h; split at h <;> cases h
  | _ => cases h

/-- What FETCH, DECODE and EXECUTE can do (40_step_cycle R142 to R145): raise a fetch error, raise a decode error, or execute the decoded instruction. -/
theorem runInstruction_next {s t : State} (h : runInstruction s = .next t) :
    (s.fetch = none ∧ t = s.raise .outOfBounds) ∨
    (∃ w, s.fetch = some w ∧ decode w = .unknownOpcode ∧ t = s.raise .unknownOpcode) ∨
    (∃ w i, s.fetch = some w ∧ decode w = .instr i ∧ exec i s = .next t) := by
  unfold runInstruction at h
  split at h
  · next hf =>
    simp only [raiseError, Host.Outcome.next.injEq] at h
    exact Or.inl ⟨hf, h.symm⟩
  · next w hf =>
    split at h
    · next hd =>
      simp only [raiseError, Host.Outcome.next.injEq] at h
      exact Or.inr (Or.inl ⟨w, hf, hd, h.symm⟩)
    · next i hd => exact Or.inr (Or.inr ⟨w, i, hf, hd, h⟩)

/-- FETCH succeeds exactly where both bytes lie in MEM, and then reads them big-endian (20_memory R72, 40_step_cycle R143). -/
theorem State.fetch_eq (s : State) : s.fetch =
    if s.pc.toNat + 1 ≤ 0xFFF then some (s.mem.read s.pc.toNat ++ s.mem.read (s.pc.toNat + 1)) else none := by
  unfold State.fetch wordOfBytes
  have hr := rangeInMemory_iff s.pc.toNat 2
  by_cases h : s.pc.toNat + 1 ≤ 0xFFF
  · rw [if_pos h, if_pos (hr.2 (by omega))]
  · have hf : ¬ rangeInMemory s.pc.toNat 2 = true := fun e => by have := hr.1 e; omega
    rw [if_neg h, if_neg hf]

/-- When the next command is a STEP, `step` is the STEP command. -/
theorem step_of_stepNext {s : State} (h : s.stepNext = true) : step s = stepCommand s := by
  unfold step transact
  split
  · next hp => simp [State.stepNext, hp, Command.isStep] at h
  · next hp => simp [State.stepNext, hp, Command.isStep] at h
  · rfl
  · rfl

/-- What STEP can do (40_step_cycle R141, R146, R147): with an error latched nothing; else run one instruction and commit or abort. -/
theorem stepCommand_next {s t : State} (h : stepCommand s = .next t) :
    (s.err ≠ 0 ∧ t = s.latchedStep) ∨
    (s.err = 0 ∧ ∃ u, runInstruction s = .next u ∧ t = u.finishStep) := by
  unfold stepCommand at h
  split at h
  · next he =>
    split at h
    · next u hu =>
      simp only [Host.Outcome.next.injEq] at h
      exact Or.inr ⟨he, u, hu, h.symm⟩
    · cases h
    · cases h
  · next he =>
    simp only [Host.Outcome.next.injEq] at h
    exact Or.inl ⟨he, h.symm⟩

/-- What one command can do (10_state R60): TICK, INIT, or STEP. -/
theorem step_next {s t : State} (h : step s = .next t) :
    (∃ rest, s.pending = .tick :: rest ∧ t = (s.tick.respond .nothing).dropCommand) ∨
    (∃ image rest, s.pending = .init image :: rest ∧ t = (s.init image).dropCommand) ∨
    (s.stepNext = true ∧ stepCommand s = .next t) := by
  unfold step transact at h
  split at h
  · next rest hp =>
    simp only [Host.Outcome.next.injEq] at h
    exact Or.inl ⟨rest, hp, h.symm⟩
  · next image rest hp =>
    simp only [Host.Outcome.next.injEq] at h
    exact Or.inr (Or.inl ⟨image, rest, hp, h.symm⟩)
  · next hp => exact Or.inr (Or.inr ⟨by simp [State.stepNext, hp, Command.isStep], h⟩)
  · next hp => exact Or.inr (Or.inr ⟨by simp [State.stepNext, hp], h⟩)

/-- Running on from a step that answers a next state. -/
theorem core_run_succ (M : Host.Core) (n : Nat) (s t : M.State) (h : M.step s = .next t) :
    M.run (n + 1) s = M.run n t := by
  have e : M.run (n + 1) s = match M.step s with
    | .next s' => M.run n s'
    | .fault r => .fault r
    | .refused r => .refused r := rfl
  rw [e, h]

/-- A word that is placed is the word the next step fetches (notes/assumptions/10.md). -/
theorem State.placeWord_fetch (s : State) (w : Word) (h : s.mem.wf) : (s.placeWord w).fetch = some w := by
  have hp : (s.placeWord w).pc = s.placeAddress := rfl
  have hm : (s.placeWord w).mem =
      Memory.load [(bytesOfWord w).1, (bytesOfWord w).2] s.placeAddress.toNat s.mem := rfl
  have ha : s.placeAddress.toNat + 1 ≤ 0xFFF := by
    unfold State.placeAddress
    split
    · next hr => have := (rangeInMemory_iff _ _).1 hr; omega
    · decide
  have hw := wordOfBytes_bytesOfWord w
  unfold wordOfBytes at hw
  rw [State.fetch_eq, hp, hm, if_pos ha, Memory.read_load _ _ _ _ h.1, Memory.read_load _ _ _ _ h.1,
    if_pos (by simp), if_pos (by simp)]
  simpa using hw

/-- COMMIT and ABORT leave every element of the core's state but PREV_KEYS as the instruction left it. -/
theorem State.finishStep_core (s : State) :
    s.finishStep.mem = s.mem ∧ s.finishStep.v = s.v ∧ s.finishStep.i = s.i ∧ s.finishStep.pc = s.pc ∧
    s.finishStep.stack = s.stack ∧ s.finishStep.sp = s.sp ∧ s.finishStep.dt = s.dt ∧ s.finishStep.st = s.st ∧
    s.finishStep.disp = s.disp ∧ s.finishStep.err = s.err ∧ s.finishStep.params = s.params := by
  unfold State.finishStep
  split <;> simp [State.commit, State.abort]

/-- The snapshot after COMMIT or ABORT (40_step_cycle R146, R147). -/
theorem State.finishStep_snapshot (s : State) :
    s.finishStep.snapshot = if s.err = 0 then s.committed s.keysIn else s.snapshot := by
  unfold State.finishStep
  split <;> simp

/-- The response after COMMIT or ABORT (10_state R61). -/
theorem State.finishStep_response (s : State) :
    s.finishStep.response = if s.err = 0 then .ok else .error s.err := by
  unfold State.finishStep
  split <;> simp [State.commit, State.abort]

/-- The STEP command is consumed by COMMIT and by ABORT. -/
theorem State.finishStep_pending (s : State) : s.finishStep.pending = s.pending.tail := by
  unfold State.finishStep
  split <;> simp [State.commit, State.abort]

end Sys2Proof.Machine
end

