-- ==== Sys2Proof/Tests/Slice0.lean ====
section
/-! SUPPORT. Tests: every instruction's word written out bit by bit from 30_encoding R106, the ill-formed terms, worked examples and vectors of spec/95_test_vectors.md (each test names its group L1 to L3), and a witness for the hypotheses of every obligation. -/

namespace Sys2Proof.Tests

/- One proof at a time: the tests are many small kernel evaluations, and a thread for each needs more memory than a check has. -/
set_option Elab.async false

open Sys2Proof.Machine

/-! ## Helpers -/

/-- INIT of an empty image with `ADD_I_SETS_VF` = false and one STEP listed, no key pressed. -/
def base : State :=
  { State.reset with
    params := { specParams with addISetsVF := false }
    pending := [.step 0] }

/-- Registers set in a start state. -/
def withV (s : State) (l : List (RegIdx × Byte)) : State := l.foldl (fun s p => s.writeV p.1 p.2) s

/-- The keypad sample of the STEP. -/
def withKeys (s : State) (keys : BitVec 16) : State := { s with pending := [.step keys] }

/-- Bytes placed in memory. -/
def withMem (s : State) (a : Nat) (bytes : List Byte) : State := { s with mem := Memory.load bytes a s.mem }

/-- The next state, where there is one. -/
def stateOf : StepResult → Option State
  | .next t => some t
  | .fault _ => none
  | .refused _ => none

theorem eq_next_of_stateOf {o : StepResult} {t : State} (h : stateOf o = some t) : o = .next t := by
  cases o <;> simp_all [stateOf]

/-- The next state, or the same one where the machine stops. -/
def after (o : StepResult) (s : State) : State := (stateOf o).getD s

/-- One step of the machine with the word `w` placed where it fetches. -/
def look {α : Type} (w : Nat) (s : State) (f : State → α) : Option α :=
  (stateOf (step (s.withFetchWord 16 w))).map f

/-- One command of the host. -/
def command {α : Type} (s : State) (c : List Command) (f : State → α) : Option α :=
  (stateOf (step { s with pending := c })).map f

/-- How many pixels are on. -/
def pixelsOn (d : Display) : Nat := ((List.range 2048).filter (fun k => d.getLsbD k)).length

/-! ## Decoding: one word per instruction, its bits from 30_encoding R106 and the rule of the instruction -/

theorem test_decode_sys : decode 0b0000_1010_1011_1100 = .instr (.sys 0xABC) ∧ encode (.sys 0xABC) = 0b0000_1010_1011_1100 := by decide
theorem test_decode_cls : decode 0b0000_0000_1110_0000 = .instr (.cls) ∧ encode (.cls) = 0b0000_0000_1110_0000 := by decide
theorem test_decode_ret : decode 0b0000_0000_1110_1110 = .instr (.ret) ∧ encode (.ret) = 0b0000_0000_1110_1110 := by decide
theorem test_decode_jp : decode 0b0001_1010_1011_1100 = .instr (.jp 0xABC) ∧ encode (.jp 0xABC) = 0b0001_1010_1011_1100 := by decide
theorem test_decode_call : decode 0b0010_1010_1011_1100 = .instr (.call 0xABC) ∧ encode (.call 0xABC) = 0b0010_1010_1011_1100 := by decide
theorem test_decode_seByte : decode 0b0011_1010_0101_1100 = .instr (.seByte 0xA 0x5C) ∧ encode (.seByte 0xA 0x5C) = 0b0011_1010_0101_1100 := by decide
theorem test_decode_sneByte : decode 0b0100_1010_0101_1100 = .instr (.sneByte 0xA 0x5C) ∧ encode (.sneByte 0xA 0x5C) = 0b0100_1010_0101_1100 := by decide
theorem test_decode_seReg : decode 0b0101_1010_1011_0000 = .instr (.seReg 0xA 0xB) ∧ encode (.seReg 0xA 0xB) = 0b0101_1010_1011_0000 := by decide
theorem test_decode_ldByte : decode 0b0110_1010_0101_1100 = .instr (.ldByte 0xA 0x5C) ∧ encode (.ldByte 0xA 0x5C) = 0b0110_1010_0101_1100 := by decide
theorem test_decode_addByte : decode 0b0111_1010_0101_1100 = .instr (.addByte 0xA 0x5C) ∧ encode (.addByte 0xA 0x5C) = 0b0111_1010_0101_1100 := by decide
theorem test_decode_ldReg : decode 0b1000_1010_1011_0000 = .instr (.ldReg 0xA 0xB) ∧ encode (.ldReg 0xA 0xB) = 0b1000_1010_1011_0000 := by decide
theorem test_decode_or : decode 0b1000_1010_1011_0001 = .instr (.or 0xA 0xB) ∧ encode (.or 0xA 0xB) = 0b1000_1010_1011_0001 := by decide
theorem test_decode_and : decode 0b1000_1010_1011_0010 = .instr (.and 0xA 0xB) ∧ encode (.and 0xA 0xB) = 0b1000_1010_1011_0010 := by decide
theorem test_decode_xor : decode 0b1000_1010_1011_0011 = .instr (.xor 0xA 0xB) ∧ encode (.xor 0xA 0xB) = 0b1000_1010_1011_0011 := by decide
theorem test_decode_addReg : decode 0b1000_1010_1011_0100 = .instr (.addReg 0xA 0xB) ∧ encode (.addReg 0xA 0xB) = 0b1000_1010_1011_0100 := by decide
theorem test_decode_sub : decode 0b1000_1010_1011_0101 = .instr (.sub 0xA 0xB) ∧ encode (.sub 0xA 0xB) = 0b1000_1010_1011_0101 := by decide
theorem test_decode_shr : decode 0b1000_1010_1011_0110 = .instr (.shr 0xA 0xB) ∧ encode (.shr 0xA 0xB) = 0b1000_1010_1011_0110 := by decide
theorem test_decode_subn : decode 0b1000_1010_1011_0111 = .instr (.subn 0xA 0xB) ∧ encode (.subn 0xA 0xB) = 0b1000_1010_1011_0111 := by decide
theorem test_decode_shl : decode 0b1000_1010_1011_1110 = .instr (.shl 0xA 0xB) ∧ encode (.shl 0xA 0xB) = 0b1000_1010_1011_1110 := by decide
theorem test_decode_sneReg : decode 0b1001_1010_1011_0000 = .instr (.sneReg 0xA 0xB) ∧ encode (.sneReg 0xA 0xB) = 0b1001_1010_1011_0000 := by decide
theorem test_decode_ldI : decode 0b1010_1010_1011_1100 = .instr (.ldI 0xABC) ∧ encode (.ldI 0xABC) = 0b1010_1010_1011_1100 := by decide
theorem test_decode_jpV0 : decode 0b1011_1010_1011_1100 = .instr (.jpV0 0xABC) ∧ encode (.jpV0 0xABC) = 0b1011_1010_1011_1100 := by decide
theorem test_decode_rnd : decode 0b1100_1010_0101_1100 = .instr (.rnd 0xA 0x5C) ∧ encode (.rnd 0xA 0x5C) = 0b1100_1010_0101_1100 := by decide
theorem test_decode_drw : decode 0b1101_1010_1011_0111 = .instr (.drw 0xA 0xB 0x7) ∧ encode (.drw 0xA 0xB 0x7) = 0b1101_1010_1011_0111 := by decide
theorem test_decode_skp : decode 0b1110_1010_1001_1110 = .instr (.skp 0xA) ∧ encode (.skp 0xA) = 0b1110_1010_1001_1110 := by decide
theorem test_decode_sknp : decode 0b1110_1010_1010_0001 = .instr (.sknp 0xA) ∧ encode (.sknp 0xA) = 0b1110_1010_1010_0001 := by decide
theorem test_decode_ldVxDT : decode 0b1111_1010_0000_0111 = .instr (.ldVxDT 0xA) ∧ encode (.ldVxDT 0xA) = 0b1111_1010_0000_0111 := by decide
theorem test_decode_ldVxK : decode 0b1111_1010_0000_1010 = .instr (.ldVxK 0xA) ∧ encode (.ldVxK 0xA) = 0b1111_1010_0000_1010 := by decide
theorem test_decode_ldDTVx : decode 0b1111_1010_0001_0101 = .instr (.ldDTVx 0xA) ∧ encode (.ldDTVx 0xA) = 0b1111_1010_0001_0101 := by decide
theorem test_decode_ldSTVx : decode 0b1111_1010_0001_1000 = .instr (.ldSTVx 0xA) ∧ encode (.ldSTVx 0xA) = 0b1111_1010_0001_1000 := by decide
theorem test_decode_addIVx : decode 0b1111_1010_0001_1110 = .instr (.addIVx 0xA) ∧ encode (.addIVx 0xA) = 0b1111_1010_0001_1110 := by decide
theorem test_decode_ldFVx : decode 0b1111_1010_0010_1001 = .instr (.ldFVx 0xA) ∧ encode (.ldFVx 0xA) = 0b1111_1010_0010_1001 := by decide
theorem test_decode_ldBVx : decode 0b1111_1010_0011_0011 = .instr (.ldBVx 0xA) ∧ encode (.ldBVx 0xA) = 0b1111_1010_0011_0011 := by decide
theorem test_decode_ldMemVx : decode 0b1111_1010_0101_0101 = .instr (.ldMemVx 0xA) ∧ encode (.ldMemVx 0xA) = 0b1111_1010_0101_0101 := by decide
theorem test_decode_ldVxMem : decode 0b1111_1010_0110_0101 = .instr (.ldVxMem 0xA) ∧ encode (.ldVxMem 0xA) = 0b1111_1010_0110_0101 := by decide

/-- The words of 95 L2.1 that are no instruction. -/
theorem test_decode_illegal : [0x5121#16, 0x9121#16, 0x8008#16, 0x800D#16, 0x800F#16, 0xE09F#16, 0xF000#16, 0xF030#16,
    0xFFFF#16].all (fun w => decode w == .unknownOpcode) = true := by decide

/-- The edges of 0NNN in 95 L2.1: only 00E0 and 00EE are carved out. -/
theorem test_decode_sys_edges : decode 0x0000 = .instr (.sys 0x000) ∧ decode 0x00E1 = .instr (.sys 0x0E1) ∧
    decode 0x00FF = .instr (.sys 0x0FF) := by decide

/-- 20_memory R72: the first byte is the high one. -/
theorem test_decode_bytes : decodeBytes 0x6A 0x5C = .instr (.ldByte 0xA 0x5C) ∧
    decodeTableWord 16 0x6A5C = some (.ldByte 0xA 0x5C) ∧ decodeTableWord 16 0x5121 = none := by decide

/-- The one check of WellFormed: SYS does not have the words of CLS and RET (30_encoding R107). -/
theorem test_illformed_sys_cls : (Instr.sys 0x0E0).wellFormed = false := by decide
theorem test_illformed_sys_ret : (Instr.sys 0x0EE).wellFormed = false := by decide
theorem test_wellformed_sys : (Instr.sys 0x0E1).wellFormed = true := by decide

/-! ## Register and ALU instructions (95 L1.2, L1.3, L2.3) -/

theorem test_ldByte : look 0x6F07 (withV base [(0xF, 1)]) (fun t => (t.readV 0xF, t.pc)) = some (7, 0x202) := by decide +kernel
theorem test_addByte_wraps : look 0x7301 (withV base [(3, 0xFF), (0xF, 5)]) (fun t => (t.readV 3, t.readV 0xF)) = some (0, 5) := by decide +kernel
theorem test_ldReg : look 0x8010 (withV base [(1, 0x7C)]) (fun t => (t.readV 0, t.readV 1)) = some (0x7C, 0x7C) := by decide +kernel
theorem test_or : look 0x8011 (withV base [(0, 0x0F), (1, 0xF0), (0xF, 9)]) (fun t => (t.readV 0, t.readV 0xF)) = some (0xFF, 9) := by decide +kernel
theorem test_and : look 0x8012 (withV base [(0, 0x3C), (1, 0x0F)]) (fun t => t.readV 0) = some 0x0C := by decide +kernel
theorem test_xor : look 0x8013 (withV base [(0, 0xFF), (1, 0x0F)]) (fun t => t.readV 0) = some 0xF0 := by decide +kernel
/-- L1.2. -/
theorem test_addReg : look 0x8564 (withV base [(5, 0xFF), (6, 1)]) (fun t => (t.readV 5, t.readV 0xF, t.readV 6, t.pc, t.response)) = some (0, 1, 1, 0x202, .ok) := by decide +kernel
theorem test_addReg_flag_last : look 0x8F14 (withV base [(0xF, 0xFF), (1, 1)]) (fun t => t.readV 0xF) = some 1 := by decide +kernel
/-- L1.3. -/
theorem test_sub : look 0x8565 (withV base [(5, 1), (6, 2)]) (fun t => (t.readV 5, t.readV 0xF)) = some (0xFF, 0) := by decide +kernel
theorem test_sub_equal : look 0x8015 (withV base [(0, 5), (1, 5)]) (fun t => (t.readV 0, t.readV 0xF)) = some (0, 1) := by decide +kernel
theorem test_shr_vx : look 0x8236 (withV base [(2, 4), (3, 3)]) (fun t => (t.readV 2, t.readV 0xF)) = some (2, 0) := by decide +kernel
/-- The same word under `SHIFT_SOURCE = VY`. -/
theorem test_shr_vy : look 0x8236 (withV { base with params := { base.params with shiftSource := .vy } } [(2, 4), (3, 3)])
    (fun t => (t.readV 2, t.readV 0xF, t.readV 3)) = some (1, 1, 3) := by decide +kernel
theorem test_subn : look 0x8127 (withV base [(1, 1), (2, 0)]) (fun t => (t.readV 1, t.readV 0xF)) = some (0xFF, 0) := by decide +kernel
theorem test_subn_noborrow : look 0x8127 (withV base [(1, 2), (2, 5)]) (fun t => (t.readV 1, t.readV 0xF)) = some (3, 1) := by decide +kernel
theorem test_shl : look 0x820E (withV base [(2, 0x81)]) (fun t => (t.readV 2, t.readV 0xF)) = some (2, 1) := by decide +kernel
theorem test_shl_no_bit : look 0x820E (withV base [(2, 0x7F)]) (fun t => (t.readV 2, t.readV 0xF)) = some (0xFE, 0) := by decide +kernel

/-! ## Skips (95 L1.4, L2.4) -/

theorem test_seByte : look 0x3310 (withV base [(3, 0x10)]) (fun t => t.pc) = some 0x204 := by decide +kernel
theorem test_seByte_not : look 0x3311 (withV base [(3, 0x10)]) (fun t => t.pc) = some 0x202 := by decide +kernel
theorem test_sneByte : look 0x4311 (withV base [(3, 0x10)]) (fun t => t.pc) = some 0x204 := by decide +kernel
theorem test_seReg_same : look 0x5330 (withV base [(3, 9)]) (fun t => t.pc) = some 0x204 := by decide +kernel
theorem test_sneReg : look 0x9340 (withV base [(3, 0x77), (4, 0x78)]) (fun t => t.pc) = some 0x204 := by decide +kernel
theorem test_skip_at_end : look 0x3000 ({ base with pc := 0xFFE }) (fun t => (t.pc, t.err)) = some (0x1002, 0) := by decide +kernel

/-! ## Jump, call, return (95 L1.5, L2.5) -/

theorem test_jp_odd : look 0x1201 (base) (fun t => (t.pc, t.err)) = some (0x201, 0) := by decide +kernel
theorem test_call : look 0x2FFF ({ base with pc := 0xFFE }) (fun t => (t.stack[0], t.sp, t.pc)) = some (0x1000, 1, 0xFFF) := by decide +kernel
theorem test_call_full : look 0x2300 ({ base with sp := 16 }) (fun t => (t.err, t.sp, t.pc, t.response)) = some (3, 16, 0x200, .error 3) := by decide +kernel
theorem test_ret : look 0x00EE ({ base with sp := 2, stack := base.stack.set 1 0x456 }) (fun t => (t.sp, t.pc, t.stack[1])) = some (1, 0x456, 0x456) := by decide +kernel
theorem test_ret_empty : look 0x00EE (base) (fun t => (t.err, t.sp, t.pc)) = some (4, 0, 0x200) := by decide +kernel
theorem test_jpV0 : look 0xBFFF (withV base [(0, 0xFF)]) (fun t => (t.pc, t.err)) = some (0x10FE, 0) := by decide +kernel

/-! ## Index and memory (95 L2.6) -/

theorem test_ldI : look 0xA2F0 ({ base with i := 0xF123 }) (fun t => t.i) = some 0x02F0 := by decide +kernel
theorem test_addIVx_no_flag : look 0xF11E (withV { base with i := 0x0FFE } [(1, 3), (0xF, 7)]) (fun t => (t.i, t.readV 0xF)) = some (0x1001, 7) := by decide +kernel
theorem test_addIVx_flag : look 0xF11E
    (withV { base with i := 0xFFFF, params := { base.params with addISetsVF := true } } [(1, 1)])
    (fun t => (t.i, t.readV 0xF)) = some (0, 1) := by decide +kernel
/-- FONT_BASE is a parameter (92 D7): 0x050 + 5 * 10. -/
theorem test_ldFVx_moved_font : look 0xF429 (withV { base with params := { base.params with fontBase := 0x50 } } [(4, 0x0A)]) (fun t => t.i) = some 0x0082 := by decide +kernel
theorem test_ldFVx_low_nibble : look 0xF429 (withV base [(4, 0x1A)]) (fun t => t.i) = some 0x0032 := by decide +kernel
theorem test_ldBVx : look 0xF033 (withV { base with i := 0x300 } [(0, 0xFE)]) (fun t => (t.mem.read 0x300, t.mem.read 0x301, t.mem.read 0x302, t.i)) = some (2, 5, 4, 0x300) := by decide +kernel
theorem test_ldBVx_out : look 0xF033 (withV { base with i := 0xFFE } [(0, 0xFE)]) (fun t => (t.err, t.pc, t.mem.read 0xFFE)) = some (1, 0x200, 0) := by decide +kernel
theorem test_ldMemVx : look 0xF055 (withV { base with i := 0x400 } [(0, 0xAA), (1, 0xBB)]) (fun t => (t.mem.read 0x400, t.mem.read 0x401, t.i)) = some (0xAA, 0, 0x400) := by decide +kernel
theorem test_ldMemVx_out : look 0xFF55 (withV { base with i := 0xFF1 } [(0, 0xAA)]) (fun t => (t.err, t.mem.read 0xFF1)) = some (1, 0) := by decide +kernel
theorem test_ldVxMem_vf : look 0xFF65 (withMem { base with i := 0xFF0 } 0xFF0 [0, 1, 2, 3, 4, 5, 6, 7, 8, 9, 10, 11, 12, 13, 14, 15]) (fun t => (t.readV 0, t.readV 9, t.readV 0xF)) = some (0, 9, 15) := by decide +kernel
theorem test_ldVxMem_out : look 0xF065 ({ base with i := 0x1000 }) (fun t => (t.err, t.readV 0)) = some (1, 0) := by decide +kernel

/-! ## Random (95 L2.7) and display (95 L1.7, L2.8) -/

theorem test_rnd : look 0xCFF0 (withV { base with randoms := [0x7E, 1] } [(0xF, 1)]) (fun t => (t.readV 0xF, t.randoms)) = some (0x70, [1]) := by decide +kernel
/-- With no byte lined up one free draw is used up, NN = 0 included (R300). -/
theorem test_rnd_drawn : look 0xC500 (base) (fun t => (t.rndDraws, t.pc)) = some (1, 0x202) := by decide +kernel
theorem test_cls : look 0x00E0 (withV { base with disp := 5 } [(0xF, 3)]) (fun t => (t.disp, t.readV 0xF)) = some (0, 3) := by decide +kernel
/-- Both axes wrap. -/
theorem test_drw_wraps : look 0xD012 (withV (withMem { base with i := 0x300 } 0x300 [0xFF, 0xFF]) [(0, 0x3C), (1, 0x1F)]) (fun t => ([60, 61, 62, 63, 0, 1, 2, 3].all (fun c => t.disp.pixel c 31 && t.disp.pixel c 0), pixelsOn t.disp, t.readV 0xF)) = some (true, 16, 0) := by decide +kernel
theorem test_drw_collides : look 0xD011 (withMem { base with i := 0x300, disp := 1 } 0x300 [0x80]) (fun t => (t.disp, t.readV 0xF)) = some (0, 1) := by decide +kernel

/-! ## Timers (95 L1.8, L2.9), keypad (95 L2.10), SYS (95 L2.11) -/

theorem test_ldVxDT : look 0xF107 ({ base with dt := 0x2A }) (fun t => (t.readV 1, t.dt)) = some (0x2A, 0x2A) := by decide +kernel
theorem test_ldDTVx : look 0xF015 (withV base [(0, 3)]) (fun t => (t.dt, t.st)) = some (3, 0) := by decide +kernel
theorem test_ldSTVx : look 0xF018 (withV base [(0, 5)]) (fun t => (t.st, t.soundOn, t.dt)) = some (5, true, 0) := by decide +kernel
theorem test_tick : command { base with dt := 5, st := 1, err := 2 } [.tick]
    (fun t => (t.dt, t.st, t.soundOn, t.err)) = some (4, 0, false, 2) := by decide +kernel
theorem test_tick_zero : command { base with st := 0xFF } [.tick] (fun t => (t.dt, t.st)) = some (0, 0xFE) := by
  decide +kernel
theorem test_skp : look 0xE19E (withKeys (withV base [(1, 5)]) 0x0020) (fun t => t.pc) = some 0x204 := by decide +kernel
theorem test_skp_no_such_key : look 0xE19E (withKeys (withV base [(1, 0x10)]) 0xFFFF) (fun t => t.pc) = some 0x202 := by decide +kernel
theorem test_sknp : look 0xE1A1 (withKeys (withV base [(1, 5)]) 0x0020) (fun t => t.pc) = some 0x202 := by decide +kernel
theorem test_sknp_no_such_key : look 0xE1A1 (withKeys (withV base [(1, 0x10)]) 0xFFFF) (fun t => t.pc) = some 0x204 := by decide +kernel
theorem test_ldVxK_held : look 0xF30A (withKeys { base with prevKeys := 0x0020 } 0x0020) (fun t => (t.pc, t.readV 3, t.prevKeys, t.response)) = some (0x200, 0, 0x0020, .ok) := by decide +kernel
theorem test_ldVxK_lowest : look 0xF30A (withKeys base 0x0108) (fun t => (t.pc, t.readV 3, t.prevKeys)) = some (0x202, 3, 0x0108) := by decide +kernel
theorem test_sys : look 0x0123 (base) (fun t => (t.err, t.pc, t.response)) = some (6, 0x200, .error 6) := by decide +kernel
theorem test_sys_nop : look 0x0123 { base with params := { base.params with sysPolicy := .nop } }
    (fun t => (t.err, t.pc)) = some (0, 0x202) := by decide +kernel

/-! ## The step cycle (95 L2.2) and INIT (95 L2.12) -/

theorem test_last_fetch : look 0x6001 ({ base with pc := 0xFFE }) (fun t => (t.readV 0, t.pc)) = some (1, 0x1000) := by decide +kernel
theorem test_odd_pc : look 0x6A07 ({ base with pc := 0x201 }) (fun t => (t.readV 0xA, t.pc)) = some (7, 0x203) := by decide +kernel
theorem test_fetch_out : command { base with pc := 0xFFF } [.step 0] (fun t => (t.err, t.pc, t.response)) =
    some (1, 0xFFF, .error 1) := by decide +kernel
theorem test_latched : command { withMem base 0x200 [0x60, 0x01] with err := 2 } [.step 0]
    (fun t => (t.err, t.readV 0, t.pc, t.response)) = some (2, 0, 0x200, .error 2) := by decide +kernel
theorem test_error_keeps_keys : look 0x5121 (withKeys { base with prevKeys := 1 } 2) (fun t => (t.err, t.prevKeys, t.response)) = some (2, 1, .error 2) := by decide +kernel
theorem test_init : command { base with err := 3, pc := 0x456, dt := 9 } [.init [0xAA, 0xBB]]
    (fun t => (t.err, t.pc, t.dt, [0x200, 0x201, 0x202, 0].map t.mem.read, t.response)) =
    some (0, 0x200, 0, [0xAA, 0xBB, 0, 0xF0], .ok) := by decide +kernel
theorem test_init_too_large : command { base with err := 3, pc := 0x456 } [.init (List.replicate 3585 0)]
    (fun t => (t.err, t.pc, t.response)) = some (3, 0x456, .error 5) := by decide +kernel
/-- Another font in another place (30_encoding R131): the spec's font is not there any more. -/
theorem test_init_other_font : command { base with params := { base.params with fontBase := 0x50, fontData := Vector.replicate 80 0x11 } }
    [.init [0xAA]] (fun t => [0, 0x4F, 0x50, 0x9F, 0xA0, 0x200].map t.mem.read) =
    some [0, 0, 0x11, 0x11, 0, 0xAA] := by decide +kernel
/-- Power-on: the first STEP fetches 0000 (70_reset R452). -/
theorem test_reset_step : (stateOf (step State.reset)).map (fun t => (t.err, t.pc)) = some (6, 0x200) := by decide +kernel
/-- The glyphs of digits 1 and F in the font region (30_encoding R131). -/
theorem test_font : [5, 6, 7, 8, 9, 75, 76, 77, 78, 79].map State.reset.mem.read =
    [0x20, 0x60, 0x20, 0x20, 0x70, 0xF0, 0x80, 0xF0, 0x80, 0x80] := by decide

/-! ## Witnesses: a state and operands that meet the hypotheses of each obligation, clause by clause -/

theorem test_witness_DecodeInvertsEncode : (Instr.sys 0x0E1).wellFormed = true ∧ (Instr.drw 0xF 0xF 0xF).wellFormed = true := by
  decide
theorem test_witness_EncodeInvertsDecode : decode 0x00E1 = .instr (.sys 0x0E1) ∧ decode 0xFF65 = .instr (.ldVxMem 0xF) := by
  decide
/-- The clause for X other than F, for the five flag-setting instructions, beside X = F. -/
theorem test_witness_flag_destination : (0xE : RegIdx) ≠ 0xF ∧ ¬ (0xF : RegIdx) ≠ 0xF := by decide
/-- SkipOnRegister: a trailing nibble that makes no instruction. -/
theorem test_witness_SkipOnRegister : (1 : BitVec 4) ≠ 0 ∧ decode 0x5AB1 = .unknownOpcode ∧ decode 0x9ABF = .unknownOpcode := by
  decide
theorem test_witness_CallPushesReturn : ({ base with sp := 16 } : State).sp.toNat = 16 ∧
    ({ base with sp := 15 } : State).sp.toNat < 16 := by decide
theorem test_witness_ReturnPopsStack : base.sp.toNat = 0 ∧ ({ base with sp := 1 } : State).sp.toNat = (0 : Fin 16).val + 1 ∧
    ({ base with sp := 16 } : State).sp.toNat = (15 : Fin 16).val + 1 := by decide
theorem test_witness_IllegalStackPointerStops : 16 < ({ base with sp := 17 } : State).sp.toNat := by decide

/-- A subroutine at 0x300 that calls one at 0x400, which returns. -/
def nestedStart : State :=
  { withMem (withMem base 0x300 [0x24, 0x00]) 0x400 [0x00, 0xEE] with pending := [.step 0, .step 0] }

/-- The states after a CALL 0x300 there. -/
def nested : Nat → State
  | 0 => after (exec (.call 0x300) nestedStart) nestedStart
  | n + 1 => after (step (nested n)) (nested n)

theorem test_witness_NestedCallsReturn :
    exec (.call 0x300) nestedStart = .next (nested 0) ∧
    (nested 0).err = 0 ∧ nestedStart.sp.toNat < 16 ∧
    (∀ j, j < 2 → stateOf (step (nested j)) = some (nested (j + 1))) ∧
    (∀ j, j ≤ 2 → (nested 0).sp.toNat ≤ (nested j).sp.toNat) ∧ (nested 1).sp = 2 ∧ (nested 2).sp = (nested 0).sp := by
  refine ⟨eq_next_of_stateOf ?_, ?_⟩ <;> decide +kernel

/-- CALL 0x200 over and over from an empty stack. -/
def calls : Nat → State
  | 0 => base
  | n + 1 => after (exec (.call 0x200) (calls n)) (calls n)

theorem test_witness_SeventeenthCallOverflows : (calls 0).sp = 0 ∧
    ∀ j, j < 17 → exec (.call 0x200) (calls j) = .next (calls (j + 1)) := by
  refine ⟨rfl, fun j hj => eq_next_of_stateOf ?_⟩
  revert j; decide +kernel

theorem test_witness_AddToIndex : ({ base with params := { base.params with addISetsVF := true } } : State).params.addISetsVF = true ∧
    base.params.addISetsVF = false := by decide
theorem test_witness_BcdStoresDigits : base.mem.wf ∧ ({ base with i := 0xFFE } : State).i.toNat + 2 > 0xFFF ∧
    ({ base with i := 0xFFD } : State).i.toNat + 2 ≤ 0xFFF := by decide
theorem test_witness_StoreRegisterBlock : base.mem.wf ∧ ({ base with i := 0xFF1 } : State).i.toNat + (0xF : RegIdx).toNat > 0xFFF ∧
    ({ base with i := 0xFF0 } : State).i.toNat + (0xF : RegIdx).toNat ≤ 0xFFF := by decide
theorem test_witness_LoadRegisterBlock : ({ base with i := 0x1000 } : State).i.toNat + (0 : RegIdx).toNat > 0xFFF ∧
    ({ base with i := 0xFFF } : State).i.toNat + (0 : RegIdx).toNat ≤ 0xFFF := by decide
theorem test_witness_StoreIsFetchedNext : base.mem.wf ∧ ({ base with i := 0x202 } : State).i.toNat + (1 : RegIdx).toNat ≤ 0xFFF ∧
    (0 : RegIdx).toNat < (1 : RegIdx).toNat ∧
    ({ base with i := 0x202 } : State).i.toNat + (0 : RegIdx).toNat = base.pc.toNat + 2 := by decide
theorem test_witness_RandomByteIsConsumed : ({ base with randoms := [7] } : State).randoms = 7 :: [] ∧ base.randoms = [] := by decide
theorem test_witness_RandomInputOnlyForRnd : ∀ x nn, Instr.cls ≠ .rnd x nn := by intro x nn h; cases h
theorem test_witness_DrawTogglesSprite : (1 : BitVec 4).toNat ≥ 1 ∧
    ({ base with i := 0x1000 } : State).i.toNat + (1 : BitVec 4).toNat - 1 > 0xFFF ∧
    ((0 : BitVec 4).toNat = 0 ∨ ({ base with i := 0xFFFF } : State).i.toNat + (0 : BitVec 4).toNat - 1 ≤ 0xFFF) ∧
    ({ base with i := 0xFF1 } : State).i.toNat + (0xF : BitVec 4).toNat - 1 ≤ 0xFFF := by decide
/-- The collision clause of DrawTogglesSprite and the clause without one: 95 L2.8, the pixel at the origin. -/
theorem test_witness_DrawTogglesSprite_collision :
    (({ base with disp := 1 } : State).disp.pixel 0 0 = true ∧
      (after (exec (.drw 0 0 1) { base with disp := 1 }) base).disp.pixel 0 0 = false) ∧
    base.disp = 0 := by decide +kernel
theorem test_witness_DrawTwiceRestores : (0 : RegIdx) ≠ 0xF ∧ (1 : RegIdx) ≠ 0xF ∧ base.i.toNat + (5 : BitVec 4).toNat - 1 ≤ 0xFFF ∧
    base.disp = 0 ∧ spriteBit base.mem base.i.toNat 5 0 0 = true := by decide +kernel
theorem test_witness_TickCountsTimersDown : ({ base with pending := [.tick] } : State).pending = .tick :: [] := by decide
theorem test_witness_TicksReachZero :
    ({ base with pending := [.tick, .tick] } : State).pending = List.replicate 2 .tick ++ [] := by decide
theorem test_witness_ToneFollowsSoundTimer : ({ base with pending := [.tick], st := 1 } : State).pending = .tick :: [] := by decide
theorem test_witness_SkipOnKey : (withV base [(1, 0x0F)]).readV 1 = 0x0F ∧ (withKeys base 0x8000).keysIn.getLsbD 0x0F = true ∧
    ¬ ((0x10 : Byte).toNat ≤ 0x0F) := by decide +kernel
/-- WaitForKey: no new key; key 15 alone new while key 0 is held; no error latched. -/
theorem test_witness_WaitForKey :
    (∀ k, k < 16 → (withKeys base 0).keysIn.getLsbD k = true → base.prevKeys.getLsbD k = true) ∧
    ((withKeys base 0x8001).keysIn.getLsbD 15 = true ∧ ({ base with prevKeys := 1 } : State).prevKeys.getLsbD 15 = false ∧
      (∀ j, j < 15 → (withKeys base 0x8001).keysIn.getLsbD j = true →
        ({ base with prevKeys := 1 } : State).prevKeys.getLsbD j = true)) ∧
    base.err = 0 := by decide +kernel
theorem test_witness_KeypadInputOnlyForKeys : (∀ x, Instr.cls ≠ .skp x) ∧ (∀ x, Instr.cls ≠ .sknp x) ∧ (∀ x, Instr.cls ≠ .ldVxK x) := by
  refine ⟨fun x h => ?_, fun x h => ?_, fun x h => ?_⟩ <;> cases h
theorem test_witness_SysFollowsPolicy : (0x0E1 : Addr12) ≠ 0x0E0 ∧ (0x0E1 : Addr12) ≠ 0x0EE ∧
    base.params.sysPolicy = .unsupported ∧
    ({ base with params := { base.params with sysPolicy := .nop } } : State).params.sysPolicy = .nop := by decide
/-- StepRunsDecodedInstruction at the last legal PC: an instruction that completes. -/
theorem test_witness_StepRunsDecodedInstruction :
    let s := withMem { base with pc := 0xFFE } 0xFFE [0x60, 0x01]
    s.stepNext = true ∧ s.err = 0 ∧ s.pc.toNat + 1 ≤ 0xFFF ∧
    decode (s.mem.read s.pc.toNat ++ s.mem.read (s.pc.toNat + 1)) = .instr (.ldByte 0 1) ∧
    (stateOf (exec (.ldByte 0 1) s)).map (fun t => t.err) = some 0 := by decide +kernel
/-- Its other clauses: an instruction that raises an error, and one that faults. No instruction is refused. -/
theorem test_witness_StepRunsDecodedInstruction_stops :
    decode (State.reset.mem.read 0x200 ++ State.reset.mem.read 0x201) = .instr (.sys 0) ∧
    (stateOf (exec (.sys 0) State.reset)).map (fun t => t.err) = some 6 ∧
    (exec .ret { base with sp := 18 } = .fault .noStackEntry) := by
  refine ⟨by decide +kernel, by decide +kernel, rfl⟩
theorem test_witness_LatchedStepChangesNothing : ({ base with err := 7 } : State).stepNext = true ∧
    ({ base with err := 7 } : State).err ≠ 0 := by decide
/-- FontAddressOfDigit: the clause for the spec's FONT_BASE. -/
theorem test_witness_FontAddressOfDigit : base.params.fontBase.val = 0 := by decide
theorem test_witness_FetchIsBounded : ({ base with pc := 0xFFE } : State).pc.toNat + 1 ≤ 0xFFF ∧ base.stepNext = true ∧ base.err = 0 ∧
    ({ base with pc := 0xFFF } : State).pc.toNat + 1 > 0xFFF := by decide
theorem test_witness_UnknownOpcodeIsRaised :
    let s := withMem base 0x200 [0x51, 0x21]
    s.stepNext = true ∧ s.err = 0 ∧ s.pc.toNat + 1 ≤ 0xFFF ∧
    decode (s.mem.read s.pc.toNat ++ s.mem.read (s.pc.toNat + 1)) = .unknownOpcode := by decide +kernel
theorem test_witness_ErrorChangesOnlyErr : base.stepNext = true ∧ base.err = 0 ∧ step base = .next (after (step base) base) ∧
    (after (step base) base).err ≠ 0 := by
  refine ⟨rfl, rfl, eq_next_of_stateOf ?_, ?_⟩ <;> decide +kernel
/-- OnlyInitClearsError: a STEP, a TICK, an INIT at the longest accepted length, and one that is a byte too long, each with an error latched. -/
theorem test_witness_OnlyInitClearsError : ({ base with err := 2 } : State).err ≠ 0 ∧ ({ base with err := 2 } : State).stepNext = true ∧
    (stateOf (step { base with err := 2 })).isSome = true ∧
    (stateOf (step { base with err := 2, pending := [.tick] })).isSome = true ∧
    (stateOf (step { base with err := 2, pending := [.init (List.replicate 3584 0)] })).isSome = true ∧
    (List.replicate 3584 (0 : Byte)).length ≤ 3584 ∧
    (stateOf (step { base with err := 2, pending := [.init (List.replicate 3585 0)] })).isSome = true ∧
    3584 < (List.replicate 3585 (0 : Byte)).length := by decide +kernel
/-- ErrorsIgnoreInputs: two states that differ in their keys and timers. -/
theorem test_witness_ErrorsIgnoreInputs : base.agreeForErrors (withKeys { base with dt := 9 } 0xFFFF) ∧ base.stepNext = true ∧
    (withKeys { base with dt := 9 } 0xFFFF).stepNext = true ∧ base.err = 0 ∧
    step base = .next (after (step base) base) ∧
    step (withKeys { base with dt := 9 } 0xFFFF) = .next (after (step (withKeys { base with dt := 9 } 0xFFFF)) base) := by
  refine ⟨⟨rfl, fun _ => rfl, rfl, rfl, rfl⟩, rfl, rfl, rfl, eq_next_of_stateOf ?_, eq_next_of_stateOf ?_⟩ <;> decide +kernel
theorem test_witness_OnlyListedInstructionsChangeVF : exec (.ldByte 0xF 1) base = .next (base.writeV 0xF 1).advance ∧
    (base.writeV 0xF 1).advance.readV 0xF ≠ base.readV 0xF := ⟨rfl, by decide⟩
/-- WritersOfEachPart: each part is changed by an instruction listed for it. -/
theorem test_witness_WritersOfEachPart :
    (after (exec (.ldI 1) base) base).i ≠ base.i ∧
    (after (exec (.call 1) base) base).stack ≠ base.stack ∧
    (after (exec .ret { base with sp := 1 }) base).sp ≠ ({ base with sp := 1 } : State).sp ∧
    (after (exec .cls { base with disp := 1 }) base).disp ≠ ({ base with disp := 1 } : State).disp ∧
    (after (exec (.ldMemVx 0) base) base).mem ≠ base.mem ∧
    (after (exec (.ldDTVx 0) { base with dt := 1 }) base).dt ≠ ({ base with dt := 1 } : State).dt ∧
    (after (exec (.ldSTVx 0) { base with st := 1 }) base).st ≠ ({ base with st := 1 } : State).st := by decide +kernel
theorem test_witness_StackPointerStaysLegal : ({ base with sp := 16 } : State).sp.toNat ≤ 16 ∧
    (stateOf (step { base with sp := 16 })).isSome = true := by decide +kernel
theorem test_witness_MemoryStaysCanonical : base.mem.wf ∧ (stateOf (step base)).isSome = true := by decide +kernel
theorem test_witness_ProgramCounterStaysBounded : ({ base with pc := 0x10FE } : State).pcBounded ∧
    (stateOf (step { base with pc := 0x10FE })).isSome = true := by
  refine ⟨⟨by decide, by decide, fun k hk => ?_⟩, by decide +kernel⟩
  exact absurd hk (by simp [base, State.reset])
theorem test_witness_WellFormedRunsGoOn : base.wf ∧ State.reset.wf := by decide
theorem test_witness_EndedRunsStay : base.stepNext = true ∧ ({ base with err := 3 } : State).runClass = .faulted ∧
    (withMem base 0x200 [0xF3, 0x0A]).runClass = .waiting ∧ (withMem base 0x200 [0x12, 0x00]).runClass = .spinning := by
  decide +kernel
/-- Behind a TICK, FX0A waits by the sample of the STEP that is listed after it (48_keypad R365). -/
theorem test_waiting_behind_tick :
    (withMem { base with pending := [.tick, .step 0] } 0x200 [0xF3, 0x0A]).runClass = .waiting ∧
    (withMem { base with pending := [.tick, .step 4] } 0x200 [0xF3, 0x0A]).runClass = .running := by decide +kernel
theorem test_witness_PowerOnIsEmptyInit : ({ base with pending := [.init []] } : State).pending = .init [] :: [] := by decide
/-- InitLoadsImage: the longest accepted image and one that is a byte too long; an address outside image and font. -/
theorem test_witness_InitLoadsImage : (List.replicate 3584 (0xAA : Byte)).length ≤ 3584 ∧
    (List.replicate 3585 (0xAA : Byte)).length > 3584 ∧
    ({ base with pending := [.init [1]] } : State).pending = .init [1] :: [] ∧
    ¬ (0x200 ≤ 0x1FF ∧ 0x1FF < 0x200 + 1) ∧ ¬ (base.params.fontBase.val ≤ 0x1FF ∧ 0x1FF < base.params.fontBase.val + 80) := by
  rw [List.length_replicate, List.length_replicate]; decide

end Sys2Proof.Tests
end

section
/-! Proofs of 30_encoding: a decoded word is the word of its instruction. Each decoder of R105 is shown to answer a well-formed instruction whose encoding is the word its fields make; a word is made of its fields in every format (R109), so that word is the one that was read. -/

namespace Sys2Proof

/-! ## A word of a known family is made of its fields (R109) -/

theorem formatA_of_fieldOp {w : Word} {op : BitVec 4} (h : fieldOp w = op) :
    formatA op (fieldNNN w) = w := by
  rw [← h, ← word_eq_formatA]

theorem formatXI_of_fieldOp {w : Word} {op : BitVec 4} (h : fieldOp w = op) :
    formatXI op (fieldX w) (fieldNN w) = w := by
  rw [← h, ← word_eq_formatXI]

theorem formatXY_of_fieldOp {w : Word} {op : BitVec 4} (h : fieldOp w = op) :
    formatXY op (fieldX w) (fieldY w) (fieldN w) = w := by
  rw [← h, ← word_eq_formatXY]

/-! ## The decoder answers only instructions that stand for the word it read -/

/-- The instruction, if the decoder answers one, is well-formed and encodes to `w` (R107, R108). -/
def Decoded.StandsFor (d : Decoded) (w : Word) : Prop :=
  ∀ i : Instr, d = .instr i → encode i = w ∧ i.wellFormed = true

theorem standsFor_unknownOpcode (w : Word) : Decoded.unknownOpcode.StandsFor w :=
  fun _ h => nomatch h

theorem standsFor_instr {i : Instr} {w : Word} (he : encode i = w) (hw : i.wellFormed = true) :
    (Decoded.instr i).StandsFor w := by
  rintro _ ⟨⟩
  exact ⟨he, hw⟩

theorem Decoded.StandsFor.of_eq {d : Decoded} {w w' : Word} (h : d.StandsFor w) (e : w = w') : d.StandsFor w' :=
  e ▸ h

/-- Family 0x0: the two addresses carved out of 0NNN are the words of CLS and RET, and every other one makes a well-formed SYS (R107). -/
theorem decodeZero_standsFor (nnn : Addr12) : (decodeZero nnn).StandsFor (formatA 0x0 nnn) := by
  unfold decodeZero
  split
  · exact standsFor_instr rfl rfl
  · exact standsFor_instr rfl rfl
  · next hcls hret => exact standsFor_instr rfl (by simpa [Instr.wellFormed] using ⟨hcls, hret⟩)

/-- Family 0x8: the trailing nibble that selects a row is the one the encoder writes for it. -/
theorem decodeAlu_standsFor (x y : RegIdx) (n : BitVec 4) :
    (decodeAlu x y n).StandsFor (formatXY 0x8 x y n) := by
  unfold decodeAlu
  split
  case h_10 => exact standsFor_unknownOpcode _
  all_goals exact standsFor_instr rfl rfl

/-- Family 0xE: the trailing byte that selects a row is the one the encoder writes for it. -/
theorem decodeKey_standsFor (x : RegIdx) (nn : Byte) :
    (decodeKey x nn).StandsFor (formatXI 0xE x nn) := by
  unfold decodeKey
  split
  case h_3 => exact standsFor_unknownOpcode _
  all_goals exact standsFor_instr rfl rfl

/-- Family 0xF: the trailing byte that selects a row is the one the encoder writes for it. -/
theorem decodeMisc_standsFor (x : RegIdx) (nn : Byte) :
    (decodeMisc x nn).StandsFor (formatXI 0xF x nn) := by
  unfold decodeMisc
  split
  case h_10 => exact standsFor_unknownOpcode _
  all_goals exact standsFor_instr rfl rfl

/-- A row that fixes the trailing nibble to 0 (families 0x5 and 0x9) stands for the words of trailing nibble 0 alone. -/
theorem standsFor_ite_nibble {i : Instr} {op n : BitVec 4} {x y : RegIdx}
    (he : encode i = formatXY op x y 0x0) (hw : i.wellFormed = true) :
    (if n = 0#4 then Decoded.instr i else .unknownOpcode).StandsFor (formatXY op x y n) := by
  split
  · next hn => exact standsFor_instr (hn ▸ he) hw
  · exact standsFor_unknownOpcode _

/-- 30_encoding R108, by the families of R105: in `h_k` the family nibble is `k - 1`. -/
theorem decode_standsFor (w : Word) : (decode w).StandsFor w := by
  unfold decode
  split
  case h_1 hop => exact (decodeZero_standsFor _).of_eq (formatA_of_fieldOp hop)
  case h_2 hop | h_3 hop | h_11 hop | h_12 hop => exact standsFor_instr (formatA_of_fieldOp hop) rfl
  case h_4 hop | h_5 hop | h_7 hop | h_8 hop | h_13 hop => exact standsFor_instr (formatXI_of_fieldOp hop) rfl
  case h_6 hop | h_10 hop => exact (standsFor_ite_nibble rfl rfl).of_eq (formatXY_of_fieldOp hop)
  case h_9 hop => exact (decodeAlu_standsFor _ _ _).of_eq (formatXY_of_fieldOp hop)
  case h_14 hop => exact standsFor_instr (formatXY_of_fieldOp hop) rfl
  case h_15 hop => exact (decodeKey_standsFor _ _).of_eq (formatXI_of_fieldOp hop)
  case h_16 =>
    -- The default row: the fifteen families before it are excluded.
    have hop : fieldOp w = 0xF#4 := by
      simp only [imp_false] at *
      bv_omega
    exact (decodeMisc_standsFor _ _).of_eq (formatXI_of_fieldOp hop)

/-- Settles O3: a decoded word is the encoding of its instruction, so two words that decode alike are one word. -/
theorem encodeInvertsDecode : Obligations.EncodeInvertsDecode := by
  refine ⟨decode_standsFor, fun w w' i hw hw' => ?_⟩
  calc w = encode i := (decode_standsFor w i hw).1.symm
    _ = w' := (decode_standsFor w' i hw').1

end Sys2Proof
end

section
/-! Proofs of 40_step_cycle: the outcome of a STEP by what its phases find. CHECK with an error latched answers the code; a phase that raises an error ends in ABORT. -/

namespace Sys2Proof
open Machine

/-! ## The phases of a STEP (R141, R143, R147) -/

/-- CHECK (R141): with an error latched, the STEP is the latched one. -/
theorem step_of_latched {s : State} (hs : s.stepNext = true) (he : s.err ≠ 0) :
    step s = .next s.latchedStep := by
  rw [step_of_stepNext hs, stepCommand, if_neg he]

/-- ABORT (R147): a STEP in which FETCH, DECODE or EXECUTE raises an error takes the error and aborts. -/
theorem step_of_raiseError {s : State} {e : CoreError} (hs : s.stepNext = true) (he : s.err = 0)
    (hr : runInstruction s = raiseError s e) : step s = .next (s.raise e).abort := by
  have hfinish : (s.raise e).finishStep = (s.raise e).abort := if_neg e.code_ne_zero
  rw [step_of_stepNext hs, stepCommand, if_pos he, hr, ← hfinish]
  rfl

/-- The response of ABORT is the code that ERR holds (R147). -/
theorem abort_response (s : State) : s.abort.response = .error s.err := by
  simp [State.abort]

/-- A STEP that raises an error changes nothing of the core but ERR, and answers the code (R147). -/
theorem step_raise_changes_only_err {s : State} {e : CoreError} (hs : s.stepNext = true) (he : s.err = 0)
    (hr : runInstruction s = raiseError s e) :
    ∃ t, step s = .next t ∧ t.snapshot = { s.snapshot with err := e.code } ∧ t.response = .error e.code :=
  ⟨(s.raise e).abort, step_of_raiseError hs he hr,
    (State.abort_snapshot _).trans (State.raise_snapshot s e), abort_response _⟩

/-- FETCH where both bytes lie in MEM: the byte at PC is the high one (R142). -/
theorem fetch_of_in_memory {s : State} (hpc : s.pc.toNat + 1 ≤ 0xFFF) :
    s.fetch = some (s.mem.read s.pc.toNat ++ s.mem.read (s.pc.toNat + 1)) := by
  rw [State.fetch_eq, if_pos hpc]

/-- FETCH past the end of MEM raises OutOfBounds: no wrap and no partial read (R143). -/
theorem runInstruction_of_out_of_memory {s : State} (hpc : s.pc.toNat + 1 > 0xFFF) :
    runInstruction s = raiseError s .outOfBounds := by
  have hf : s.fetch = none := by rw [State.fetch_eq, if_neg (Nat.not_le.mpr hpc)]
  rw [runInstruction, hf]

/-! ## The statements -/

/-- Settles O44: the step is the latched one, which only answers the code and drops the command. -/
theorem latchedStepChangesNothing : Obligations.LatchedStepChangesNothing := fun s hs he =>
  ⟨s.latchedStep, step_of_latched hs he, s.latchedStep_snapshot, rfl, rfl, rfl, rfl⟩

/-- Settles O45: FETCH is decided by whether PC + 1 lies in MEM, and its error is code 1. -/
theorem fetchIsBounded : Obligations.FetchIsBounded := fun _ =>
  ⟨fetch_of_in_memory, fun hs he hpc => step_raise_changes_only_err hs he (runInstruction_of_out_of_memory hpc)⟩

end Sys2Proof
end

section
/-! Proofs of 41_arithmetic. Every instruction of this family ends in one of two ways: it writes V[x] and advances PC, or it writes V[x], then the flag, and advances PC (R171). Each ending has its frame once; a statement then adds what the written bytes are. -/

namespace Sys2Proof
open Machine

/-! ## Decoding the words of the family (30_encoding R105) -/

theorem decode_formatXI_ldByte (x : RegIdx) (nn : Byte) : decode (formatXI 0x6 x nn) = .instr (.ldByte x nn) := by
  simp [decode]

theorem decode_formatXI_addByte (x : RegIdx) (nn : Byte) : decode (formatXI 0x7 x nn) = .instr (.addByte x nn) := by
  simp [decode]

/-- Family 0x8 is decoded by its trailing nibble alone. -/
theorem decode_formatXY_alu (x y : RegIdx) (n : BitVec 4) : decode (formatXY 0x8 x y n) = decodeAlu x y n := by
  simp [decode]

/-! ## The two endings of an instruction -/

/-- A state that differs only in the V registers and PC has every part unchanged. -/
theorem same_of_v_pc (s : State) (v : Vector Byte 16) (pc : Word) (p : Part) :
    s.same { s with v := v, pc := pc } p := by
  cases p <;> simp [State.same]

theorem keepsExcept_writeV_advance (s : State) (x : RegIdx) (b : Byte) :
    s.keepsExcept (s.writeV x b).advance [x] [] := by
  refine ⟨fun k hk => ?_, fun p _ => same_of_v_pc s _ _ p⟩
  rw [State.readV_advance, s.readV_writeV_of_ne b (List.ne_of_not_mem_cons hk)]

/-- The destination after the result and the flag are written, where X is not F (R171). -/
theorem readV_dest_resultFlag_advance (s : State) {x : RegIdx} (r : Byte) (f : Bool) (hx : x ≠ 0xF) :
    (s.writeResultFlag x r f).advance.readV x = r := by
  rw [State.readV_advance, s.readV_writeResultFlag_dest r f hx]

/-- VF after the result and the flag are written, whatever X is (R171). -/
theorem readV_vf_resultFlag_advance (s : State) (x : RegIdx) (r : Byte) (f : Bool) :
    (s.writeResultFlag x r f).advance.readV 0xF = flagByte f :=
  s.readV_writeResultFlag_vf x r f

theorem keepsExcept_resultFlag_advance (s : State) (x : RegIdx) (r : Byte) (f : Bool) :
    s.keepsExcept (s.writeResultFlag x r f).advance [x, 0xF] [] := by
  refine ⟨fun k hk => ?_, fun p _ => same_of_v_pc s _ _ p⟩
  simp only [List.mem_cons, List.not_mem_nil, or_false, not_or] at hk
  obtain ⟨hx, hf⟩ := hk
  rw [State.readV_advance, s.readV_writeResultFlag_of_ne r f hx hf]

/-! ## The flags and the difference, as numbers (R180) -/

theorem flagByte_carryFlag (a b : Byte) :
    flagByte (carryFlag a b) = if a.toNat + b.toNat > 255 then 1 else 0 := by
  simp [flagByte, carryFlag]

theorem flagByte_noBorrowFlag (a b : Byte) :
    flagByte (noBorrowFlag a b) = if a.toNat ≥ b.toNat then 1 else 0 := by
  simp [flagByte, noBorrowFlag]

/-- The difference of two bytes is the integer difference mod 256. -/
theorem byte_sub_toNat_int (a b : Byte) : ((a - b).toNat : Int) = (a.toNat - b.toNat : Int) % 256 := by
  rw [BitVec.toNat_sub]
  omega

/-! ## The statements -/

/-- Settles O5: both loads write V[x] and advance. -/
theorem loadRegister : Obligations.LoadRegister := fun s x y nn =>
  ⟨⟨decode_formatXI_ldByte x nn, _, rfl, s.readV_writeV_self x nn, rfl, keepsExcept_writeV_advance s x nn⟩,
    ⟨decode_formatXY_alu x y 0x0, _, rfl, s.readV_writeV_self x _, rfl, keepsExcept_writeV_advance s x _⟩⟩

/-- Settles O6: the byte written is the sum in 8 bits, and no second register is written. -/
theorem addImmediateSetsNoFlag : Obligations.AddImmediateSetsNoFlag := by
  refine fun s x nn => ⟨decode_formatXI_addByte x nn, _, rfl, ?_, rfl, keepsExcept_writeV_advance s x _⟩
  rw [State.readV_advance, State.readV_writeV_self, BitVec.toNat_add]

/-- Settles O7: the byte written is the bitwise operation on the two operands, and no second register is written. -/
theorem bitwiseSetsNoFlag : Obligations.BitwiseSetsNoFlag := by
  refine fun s x y =>
    ⟨⟨decode_formatXY_alu x y 0x1, _, rfl, fun k _ => ?_, rfl, keepsExcept_writeV_advance s x _⟩,
      ⟨decode_formatXY_alu x y 0x2, _, rfl, fun k _ => ?_, rfl, keepsExcept_writeV_advance s x _⟩,
      ⟨decode_formatXY_alu x y 0x3, _, rfl, fun k _ => ?_, rfl, keepsExcept_writeV_advance s x _⟩⟩ <;>
    rw [State.readV_advance, State.readV_writeV_self]
  · exact BitVec.getLsbD_or
  · exact BitVec.getLsbD_and
  · rw [BitVec.getLsbD_xor, Bool.bne_eq_xor]

/-- Settles O8: the result is the sum in 8 bits, the flag the carry. -/
theorem addSetsCarry : Obligations.AddSetsCarry := by
  refine fun s x y => ⟨decode_formatXY_alu x y 0x4, _, rfl, fun hx => ?_, ?_, rfl, keepsExcept_resultFlag_advance s x _ _⟩
  · rw [readV_dest_resultFlag_advance s _ _ hx, BitVec.toNat_add]
  · rw [readV_vf_resultFlag_advance, flagByte_carryFlag]

/-- Settles O9: the result is the difference in 8 bits, the flag set where V[x] does not borrow. -/
theorem subSetsNoBorrow : Obligations.SubSetsNoBorrow := by
  refine fun s x y => ⟨decode_formatXY_alu x y 0x5, _, rfl, fun hx => ?_, ?_, rfl, keepsExcept_resultFlag_advance s x _ _⟩
  · rw [readV_dest_resultFlag_advance s _ _ hx, byte_sub_toNat_int]
  · rw [readV_vf_resultFlag_advance, flagByte_noBorrowFlag]

/-- Settles O10: as O9, with the operands exchanged. -/
theorem subnSetsNoBorrow : Obligations.SubnSetsNoBorrow := by
  refine fun s x y => ⟨decode_formatXY_alu x y 0x7, _, rfl, fun hx => ?_, ?_, rfl, keepsExcept_resultFlag_advance s x _ _⟩
  · rw [readV_dest_resultFlag_advance s _ _ hx, byte_sub_toNat_int]
  · rw [readV_vf_resultFlag_advance, flagByte_noBorrowFlag]

/-- Settles O11: the source named by the parameter is the model's shift operand, and a shift right by one halves it and drops bit 0. -/
theorem shrShiftsBitOut : Obligations.ShrShiftsBitOut := by
  intro s x y
  obtain ⟨hhalf, hbit, -, -⟩ := shift_toNat (s.shiftOperand x y)
  simp only [← s.shiftOperand_eq x y]
  refine ⟨decode_formatXY_alu x y 0x6, _, rfl, fun hx => ?_, ?_, rfl, keepsExcept_resultFlag_advance s x _ _⟩
  · rw [readV_dest_resultFlag_advance s _ _ hx, hhalf]
  · rw [readV_vf_resultFlag_advance, hbit]

/-- Settles O12: the source named by the parameter is the model's shift operand, and a shift left by one doubles it in 8 bits and drops bit 7. -/
theorem shlShiftsBitOut : Obligations.ShlShiftsBitOut := by
  intro s x y
  obtain ⟨-, -, hdouble, hbit⟩ := shift_toNat (s.shiftOperand x y)
  simp only [← s.shiftOperand_eq x y]
  refine ⟨decode_formatXY_alu x y 0xE, _, rfl, fun hx => ?_, ?_, rfl, keepsExcept_resultFlag_advance s x _ _⟩
  · rw [readV_dest_resultFlag_advance s _ _ hx, hdouble]
  · rw [readV_vf_resultFlag_advance, hbit]

end Sys2Proof
end

section
/-! Proofs of 42_skip. Every skip only sets PC, by a condition (R210); a statement then adds which words decode to the skip and what its condition says. -/

namespace Sys2Proof
open Machine

/-! ## Decoding the words of the family (30_encoding R105) -/

theorem decode_formatXI_seByte (x : RegIdx) (nn : Byte) : decode (formatXI 0x3 x nn) = .instr (.seByte x nn) := by
  simp [decode]

theorem decode_formatXI_sneByte (x : RegIdx) (nn : Byte) : decode (formatXI 0x4 x nn) = .instr (.sneByte x nn) := by
  simp [decode]

/-- Family 0x5 has the one row of trailing nibble 0 (30_encoding R110). -/
theorem decode_formatXY_seReg (x y : RegIdx) (n : BitVec 4) :
    decode (formatXY 0x5 x y n) = if n = 0 then .instr (.seReg x y) else .unknownOpcode := by
  simp [decode]

/-- Family 0x9 has the one row of trailing nibble 0 (30_encoding R110). -/
theorem decode_formatXY_sneReg (x y : RegIdx) (n : BitVec 4) :
    decode (formatXY 0x9 x y n) = if n = 0 then .instr (.sneReg x y) else .unknownOpcode := by
  simp [decode]

/-! ## What a skip does (R210) -/

theorem keepsExcept_skipIf (s : State) (c : Bool) : s.keepsExcept (s.skipIf c) [] [] :=
  ⟨fun k _ => s.readV_skipIf c k, fun p _ => same_of_v_pc s s.v _ p⟩

/-- An instruction that is a skip on `c` completes; `P` is what `c` says. -/
theorem completesWith_skipIf {i : Instr} {s : State} {c : Bool} {P : Prop} [Decidable P]
    (he : exec i s = .next (s.skipIf c)) (hc : c = true ↔ P) :
    CompletesWith i s fun t => t.pc = (if P then s.pc + 4 else s.pc + 2) ∧ s.keepsExcept t [] [] := by
  refine ⟨s.skipIf c, he, ?_, keepsExcept_skipIf s c⟩
  simp only [State.skipIf_pc, hc]

/-! ## The statements -/

/-- Settles O13: both are skips, on the equality of V[x] and NN and on its negation. -/
theorem skipOnByte : Obligations.SkipOnByte := fun _ x nn =>
  ⟨⟨decode_formatXI_seByte x nn, completesWith_skipIf rfl beq_iff_eq⟩,
    ⟨decode_formatXI_sneByte x nn, completesWith_skipIf rfl bne_iff_ne⟩⟩

/-- Settles O14: both are skips, on the equality of V[x] and V[y] and on its negation; the trailing nibble decides whether the word is an instruction. -/
theorem skipOnRegister : Obligations.SkipOnRegister := fun _ x y =>
  ⟨⟨(decode_formatXY_seReg x y 0).trans (if_pos rfl), fun n hn => (decode_formatXY_seReg x y n).trans (if_neg hn),
      completesWith_skipIf rfl beq_iff_eq⟩,
    ⟨(decode_formatXY_sneReg x y 0).trans (if_pos rfl), fun n hn => (decode_formatXY_sneReg x y n).trans (if_neg hn),
      completesWith_skipIf rfl bne_iff_ne⟩⟩

end Sys2Proof
end

section
/-! Proofs of 43_jump_call_return. The two jumps only set PC. CALL and RET are decided by SP: the error where the stack is full or empty (R232, R233), else one state that differs in the stack and PC alone. -/

namespace Sys2Proof
open Machine

/-! ## Decoding the words of the family (30_encoding R105) -/

theorem decode_formatA_jp (nnn : Addr12) : decode (formatA 0x1 nnn) = .instr (.jp nnn) := by
  simp [decode]

theorem decode_formatA_call (nnn : Addr12) : decode (formatA 0x2 nnn) = .instr (.call nnn) := by
  simp [decode]

theorem decode_formatA_jpV0 (nnn : Addr12) : decode (formatA 0xB nnn) = .instr (.jpV0 nnn) := by
  simp [decode]

/-! ## What a transfer of control leaves unchanged -/

theorem keepsExcept_jumpTo (s : State) (a : Word) : s.keepsExcept (s.jumpTo a) [] [] :=
  ⟨fun k _ => s.readV_jumpTo a k, fun p _ => same_of_v_pc s s.v a p⟩

/-- A state that differs only in STACK, SP and PC keeps every register and every part but the stack. -/
theorem keepsExcept_stack_sp_pc (s : State) (stack : Vector Word 16) (sp : BitVec 5) (pc : Word) :
    s.keepsExcept { s with stack := stack, sp := sp, pc := pc } [] [.stack] := by
  refine ⟨fun _ _ => rfl, fun p hp => ?_⟩
  cases p <;> simp [State.same] at hp ⊢

/-! ## CALL and RET by SP (R232, R233) -/

theorem exec_call_of_full {s : State} (nnn : Addr12) (h : s.sp.toNat = 16) :
    exec (.call nnn) s = raiseError s .stackOverflow :=
  if_pos (BitVec.eq_of_toNat_eq h)

/-- Below 16 the push finds its entry, and the jump follows it. -/
theorem exec_call_of_lt {s : State} (nnn : Addr12) (h : s.sp.toNat < 16) :
    exec (.call nnn) s =
      .next { s with stack := s.stack.set s.sp.toNat (s.pc + 2) h, sp := s.sp + 1, pc := addrOperand nnn } := by
  have hne : s.sp ≠ 16 := fun e => absurd (congrArg BitVec.toNat e) h.ne
  rw [exec, execCall, if_neg hne, s.pushReturn_of_lt _ h]
  rfl

theorem exec_ret_of_empty {s : State} (h : s.sp.toNat = 0) : exec .ret s = raiseError s .stackUnderflow :=
  if_pos (BitVec.eq_of_toNat_eq h)

/-- SP of a RET that completes: the index of the popped entry. -/
theorem sp_pred_of_succ {s : State} {k : Nat} (h : s.sp.toNat = k + 1) : (s.sp - 1).toNat = k := by
  have hne : s.sp ≠ 0 := fun e => absurd (congrArg BitVec.toNat e) (by simp [h])
  rw [s.sp_pred hne, h, Nat.add_sub_cancel]

/-- From 1 to 16 the pop finds its entry. -/
theorem exec_ret_of_succ {s : State} {k : Fin 16} (h : s.sp.toNat = k.val + 1) :
    exec .ret s = .next { s with sp := s.sp - 1, pc := s.stack[k.val] } := by
  have hne : s.sp ≠ 0 := fun e => absurd (congrArg BitVec.toNat e) (by simp [h])
  have hk : (s.sp - 1).toNat = k.val := sp_pred_of_succ h
  rw [exec, execRet, if_neg hne, s.popReturn_of_lt (hk ▸ k.isLt)]
  simp only [hk]

/-! ## The statements -/

/-- Settles O15: the word is 1NNN, and the jump goes to NNN, zero-extended. -/
theorem jumpIsAbsolute : Obligations.JumpIsAbsolute := fun s nnn =>
  ⟨decode_formatA_jp nnn, _, rfl, addrOperand_toNat nnn, keepsExcept_jumpTo s _⟩

/-- Settles O16: the word is BNNN, and the jump goes to a sum that 16 bits hold. -/
theorem jumpWithOffset : Obligations.JumpWithOffset := fun s nnn =>
  ⟨decode_formatA_jpV0 nnn, _, rfl, offsetTarget_toNat nnn _, keepsExcept_jumpTo s _⟩

/-- Settles O17: SP = 16 is the full stack; below it the push writes the one entry at SP. -/
theorem callPushesReturn : Obligations.CallPushesReturn := fun s nnn =>
  ⟨decode_formatA_call nnn, exec_call_of_full nnn, fun h =>
    ⟨_, exec_call_of_lt nnn h, fun k => (Vector.getElem_set h k.isLt).trans (if_congr eq_comm rfl rfl), s.sp_succ h,
      addrOperand_toNat nnn, keepsExcept_stack_sp_pc s _ _ _⟩⟩

/-- Settles O18: SP = 0 is the empty stack; above it the pop reads the entry below SP and writes none. -/
theorem returnPopsStack : Obligations.ReturnPopsStack := fun s =>
  ⟨rfl, exec_ret_of_empty, fun _ h =>
    ⟨_, exec_ret_of_succ h, rfl, sp_pred_of_succ h, rfl, keepsExcept_stack_sp_pc s s.stack _ _⟩⟩

end Sys2Proof
end

section
/-! Proofs of 44_memory_index. ANNN, FX1E and FX29 write I (FX1E also VF) and advance PC. FX33, FX55 and FX65 access one range of bytes from I, which decides between OutOfBounds and completion (20_memory R74); a store then adds what its bytes read as, the load what its registers hold. -/

namespace Sys2Proof
open Machine

/-! ## Decoding the words of the family (30_encoding R105) -/

theorem decode_formatA_ldI (nnn : Addr12) : decode (formatA 0xA nnn) = .instr (.ldI nnn) := by
  simp [decode]

/-- Family 0xF is decoded by its trailing byte alone. -/
theorem decode_formatXI_misc (x : RegIdx) (nn : Byte) : decode (formatXI 0xF x nn) = decodeMisc x nn := by
  simp [decode]

/-! ## Writing I -/

/-- A state that differs only in I, the V registers and PC has every part but the index unchanged. -/
theorem same_of_i_v_pc (s : State) (i : Word) (v : Vector Byte 16) (pc : Word) {p : Part} (hp : p ∉ [Part.index]) :
    s.same { s with i := i, v := v, pc := pc } p := by
  cases p <;> simp [State.same] at hp ⊢

theorem keepsExcept_setI_advance (s : State) (a : Word) : s.keepsExcept (s.setI a).advance [] [.index] :=
  ⟨fun _ _ => rfl, fun _ hp => same_of_i_v_pc s a s.v _ hp⟩

/-- VF after the index flag: the flag under `ADD_I_SETS_VF`, else the old value (R262). -/
theorem readV_vf_writeIndexFlag (s : State) (sum : Nat) :
    (s.writeIndexFlag sum).readV 0xF = if s.params.addISetsVF then (if sum > 0xFFF then 1 else 0) else s.readV 0xF := by
  rw [State.writeIndexFlag, vfIdx, State.readV_writeV_self]
  simp [flagByte, indexOverflowFlag]

theorem keepsExcept_setI_writeIndexFlag_advance (s : State) (a : Word) (sum : Nat) :
    s.keepsExcept ((s.setI a).writeIndexFlag sum).advance [0xF] [.index] :=
  ⟨fun _ hk => (s.setI a).readV_writeV_of_ne _ (List.ne_of_not_mem_cons hk), fun _ hp => same_of_i_v_pc s a _ _ hp⟩

/-! ## An access to a range from I (20_memory R74) -/

/-- A range that is not empty lies in MEM exactly if its last byte does. -/
theorem rangeInMemory_succ_iff (base n : Nat) : rangeInMemory base (n + 1) = true ↔ base + n ≤ 0xFFF := by
  rw [rangeInMemory_iff]
  omega

/-- An instruction that checks the bytes I to I + n first raises OutOfBounds and does nothing else where I + n is past MEM, and completes where it is not. -/
theorem outOfBounds_or_completes {i : Instr} {s t : State} {n : Nat} {P : State → Prop}
    (he : exec i s = if rangeInMemory s.i.toNat (n + 1) then .next t else raiseError s .outOfBounds) (ht : P t) :
    (s.i.toNat + n > 0xFFF → TakesError i s .outOfBounds) ∧ (s.i.toNat + n ≤ 0xFFF → CompletesWith i s P) := by
  rw [if_congr (rangeInMemory_succ_iff _ n) rfl rfl] at he
  exact ⟨fun h => he.trans (if_neg h.not_ge), fun h => ⟨t, he.trans (if_pos h), ht⟩⟩

/-! ## Storing bytes -/

/-- A stored byte reads back, by its place in the run (20_memory R81). -/
theorem read_storeBytes_advance {s : State} (hm : s.mem.wf) (a : Nat) {bytes : List Byte} {k : Nat}
    (hk : k < bytes.length) : (s.storeBytes a bytes).advance.mem.read (a + k) = bytes.getD k 0 := by
  rw [State.advance_mem, State.storeBytes_mem, Memory.read_load bytes a _ s.mem hm.1, if_pos (by omega),
    Nat.add_sub_cancel_left]

theorem keepsMemOutside_storeBytes_advance {s : State} (hm : s.mem.wf) (a : Nat) (bytes : List Byte) :
    s.keepsMemOutside (s.storeBytes a bytes).advance a bytes.length :=
  fun k hk => Memory.read_load_outside bytes a k s.mem hm.1 hk

theorem keepsExcept_storeBytes_advance (s : State) (a : Nat) (bytes : List Byte) :
    s.keepsExcept (s.storeBytes a bytes).advance [] [.memory] := by
  refine ⟨fun _ _ => rfl, fun p hp => ?_⟩
  cases p <;> simp [State.same] at hp ⊢

/-- The digits of a byte, hundreds first, as numbers: each is small enough for a byte to hold (R264). -/
theorem bcdDigits_toNat (b : Byte) :
    ((bcdDigits b).getD 0 0).toNat = b.toNat / 100 ∧ ((bcdDigits b).getD 1 0).toNat = b.toNat / 10 % 10 ∧
      ((bcdDigits b).getD 2 0).toNat = b.toNat % 10 := by
  simp only [bcdDigits, List.getD_cons_zero, List.getD_cons_succ, BitVec.toNat_ofNat]
  omega

/-! ## The statements -/

/-- Settles O22: the word is ANNN, and I takes NNN, zero-extended. -/
theorem loadIndex : Obligations.LoadIndex := fun s nnn =>
  ⟨decode_formatA_ldI nnn, _, rfl, addrOperand_toNat nnn, rfl, keepsExcept_setI_advance s _⟩

/-- Settles O23: I takes the sum in 16 bits, and the flag is written from the sum before it is reduced. -/
theorem addToIndex : Obligations.AddToIndex := fun s x =>
  ⟨decode_formatXI_misc x 0x1E, _, rfl, BitVec.toNat_ofNat _ 16, readV_vf_writeIndexFlag (s.setI _) _, rfl,
    keepsExcept_setI_writeIndexFlag_advance s _ _⟩

/-- Settles O24: I takes the glyph address, of which 5 times a nibble is at most 75. -/
theorem fontAddressOfDigit : Obligations.FontAddressOfDigit := by
  intro s x
  have hi := s.fontAddress_toNat (s.readV x)
  refine ⟨decode_formatXI_misc x 0x29, _, rfl, hi, fun h0 => ?_, rfl, keepsExcept_setI_advance s _⟩
  rw [State.advance_i, State.setI_i, hi, h0]
  omega

/-- Settles O25: the three bytes from I are the digits. -/
theorem bcdStoresDigits : Obligations.BcdStoresDigits := by
  intro s x hm
  obtain ⟨hundreds, tens, ones⟩ := bcdDigits_toNat (s.readV x)
  have hread (k : Nat) (hk : k < 3) := congrArg BitVec.toNat
    (read_storeBytes_advance hm s.i.toNat (bytes := bcdDigits (s.readV x)) hk)
  exact ⟨decode_formatXI_misc x 0x33, outOfBounds_or_completes rfl
    ⟨(hread 0 (by decide)).trans hundreds, (hread 1 (by decide)).trans tens, (hread 2 (by decide)).trans ones,
      keepsMemOutside_storeBytes_advance hm _ (bcdDigits (s.readV x)), rfl, keepsExcept_storeBytes_advance s _ _⟩⟩

/-- Settles O26: the bytes from I are the register block, whose k-th byte is V[k]. -/
theorem storeRegisterBlock : Obligations.StoreRegisterBlock := by
  intro s x hm
  have hlen := s.regBlock_length x
  refine ⟨decode_formatXI_misc x 0x55, outOfBounds_or_completes rfl ⟨fun k hk => ?_,
    hlen ▸ keepsMemOutside_storeBytes_advance hm _ _, rfl, keepsExcept_storeBytes_advance s _ _⟩⟩
  rw [read_storeBytes_advance hm _ (by omega), s.regBlock_getD x k hk]

/-- Settles O27: the registers up to X take the bytes from I, and nothing but registers and PC is written. -/
theorem loadRegisterBlock : Obligations.LoadRegisterBlock := by
  refine fun s x => ⟨decode_formatXI_misc x 0x65, outOfBounds_or_completes rfl ⟨fun k => ?_, ?_, fun p => ?_⟩⟩
  · rw [State.readV_advance, s.readV_loadRegs _ _ (by rw [blockLength]; omega), blockLength]
    exact if_congr Nat.lt_succ_iff rfl rfl
  · rw [State.loadRegs_advance_fields]
  · rw [State.loadRegs_advance_fields]
    exact same_of_v_pc s _ _ p

end Sys2Proof
end

section
/-! Proofs of 45_random. CXNN takes the byte the random input gives, writes it masked and advances PC (R301). Every other instruction commutes with replacing the random input: it neither reads nor consumes it (R300). -/

namespace Sys2Proof
open Machine

/-! ## Decoding the word (30_encoding R105) -/

theorem decode_formatXI_rnd (x : RegIdx) (nn : Byte) : decode (formatXI 0xC x nn) = .instr (.rnd x nn) := by
  simp [decode]

/-! ## The random input (10_state R63): a byte lined up, or a free draw -/

theorem rndIn_of_cons {s : State} {b : Byte} {rest : List Byte} (h : s.randoms = b :: rest) : s.rndIn = b := by
  rw [State.rndIn, h]

theorem takeRnd_of_cons {s : State} {b : Byte} {rest : List Byte} (h : s.randoms = b :: rest) :
    s.takeRnd = { s with randoms := rest } := by
  rw [State.takeRnd, h]

theorem rndIn_of_nil {s : State} (h : s.randoms = []) : s.rndIn = Config.freeRnd s.rndDraws := by
  rw [State.rndIn, h]

theorem takeRnd_of_nil {s : State} (h : s.randoms = []) : s.takeRnd = { s with rndDraws := s.rndDraws + 1 } := by
  rw [State.takeRnd, h]

/-- One byte is consumed: either one fewer is lined up, or one more is drawn (R300). -/
theorem takeRnd_consumes_one (s : State) :
    (s.takeRnd.rndDraws : Int) - s.takeRnd.randoms.length = s.rndDraws - s.randoms.length + 1 := by
  cases h : s.randoms with
  | nil =>
    simp only [takeRnd_of_nil h, h]
    omega
  | cons b rest =>
    simp only [takeRnd_of_cons h, List.length_cons]
    omega

/-! ## CXNN (R301) -/

theorem readV_dest_takeRnd_writeV_advance (s : State) (x : RegIdx) (b : Byte) :
    (s.takeRnd.writeV x b).advance.readV x = b :=
  s.takeRnd.readV_writeV_self x b

theorem keepsExcept_takeRnd_writeV_advance (s : State) (x : RegIdx) (b : Byte) :
    s.keepsExcept (s.takeRnd.writeV x b).advance [x] [.randomSource] := by
  refine ⟨fun k hk => ?_, fun p hp => ?_⟩
  · rw [State.readV_advance, State.readV_writeV_of_ne _ _ (List.ne_of_not_mem_cons hk), State.readV_takeRnd]
  · cases p <;> simp [State.same] at hp ⊢

/-! ## The random input replaced -/

/-- The state with another random input: these bytes lined up, and this many drawn freely. -/
def withRandom (bytes : List Byte) (n : Nat) (s : State) : State := { s with randoms := bytes, rndDraws := n }

section
variable (bytes : List Byte) (n : Nat) (s : State)

@[simp] theorem withRandom_params : (withRandom bytes n s).params = s.params := rfl
@[simp] theorem withRandom_pc : (withRandom bytes n s).pc = s.pc := rfl

theorem pushReturn_withRandom (ret : Word) :
    (withRandom bytes n s).pushReturn ret = (s.pushReturn ret).map (withRandom bytes n) := by
  rw [State.pushReturn, State.pushReturn, apply_dite (Option.map _)]
  rfl

theorem popReturn_withRandom : (withRandom bytes n s).popReturn = s.popReturn.map (withRandom bytes n) := by
  rw [State.popReturn, State.popReturn, apply_dite (Option.map _)]
  rfl

theorem loadRegs_withRandom (a len : Nat) :
    (withRandom bytes n s).loadRegs a len = withRandom bytes n (s.loadRegs a len) :=
  List.foldl_hom (withRandom bytes n) fun _ _ => rfl

theorem execSys_withRandom (nnn : Addr12) :
    execSys nnn (withRandom bytes n s) = mapNext (withRandom bytes n) (execSys nnn s) := by
  rw [execSys, execSys, withRandom_params]
  cases s.params.sysPolicy <;> rfl

theorem execCall_withRandom (nnn : Addr12) :
    execCall nnn (withRandom bytes n s) = mapNext (withRandom bytes n) (execCall nnn s) := by
  rw [execCall, execCall, apply_ite (mapNext _), pushReturn_withRandom, withRandom_pc]
  refine if_congr Iff.rfl rfl ?_
  cases s.pushReturn (s.pc + 2) <;> rfl

theorem execRet_withRandom :
    execRet (withRandom bytes n s) = mapNext (withRandom bytes n) (execRet s) := by
  rw [execRet, execRet, apply_ite (mapNext _), popReturn_withRandom]
  refine if_congr Iff.rfl rfl ?_
  cases s.popReturn <;> rfl

variable {bytes n s} in
/-- An instruction that checks a range of MEM first (20_memory R74): the check is the same, and so is the state it completes with but for the random input. -/
theorem exec_withRandom_of_rangeCheck {i : Instr} {base len : Nat} {t : State} {e : CoreError}
    (he : exec i s = if rangeInMemory base len then .next t else raiseError s e)
    (he' : exec i (withRandom bytes n s) =
      if rangeInMemory base len then .next (withRandom bytes n t) else raiseError (withRandom bytes n s) e) :
    exec i (withRandom bytes n s) = mapNext (withRandom bytes n) (exec i s) := by
  rw [he, he', apply_ite (mapNext _)]
  rfl

theorem execLdVxMem_withRandom (x : RegIdx) :
    execLdVxMem x (withRandom bytes n s) = mapNext (withRandom bytes n) (execLdVxMem x s) := by
  refine exec_withRandom_of_rangeCheck (i := .ldVxMem x) rfl ?_
  rw [exec, execLdVxMem, loadRegs_withRandom]
  rfl

/-- Every instruction but CXNN commutes with replacing the random input. SYS, CALL, RET and the accesses to MEM branch, on what is not the random input; every other arm is a chain of updates of other fields. -/
theorem exec_withRandom {i : Instr} (hi : ∀ x nn, i ≠ .rnd x nn) :
    exec i (withRandom bytes n s) = mapNext (withRandom bytes n) (exec i s) := by
  cases i
  case rnd x nn => exact absurd rfl (hi x nn)
  case sys nnn => exact execSys_withRandom bytes n s nnn
  case call nnn => exact execCall_withRandom bytes n s nnn
  case ret => exact execRet_withRandom bytes n s
  case ldVxMem x => exact execLdVxMem_withRandom bytes n s x
  case drw | ldBVx | ldMemVx => exact exec_withRandom_of_rangeCheck rfl rfl
  all_goals rfl

end

/-! ## The statements -/

/-- Settles O31: replacing the random input before the instruction is replacing it after. -/
theorem randomInputOnlyForRnd : Obligations.RandomInputOnlyForRnd := fun _ s bytes n hi =>
  exec_withRandom bytes n s hi

/-- Settles O29: the byte written is the random byte AND NN, and taking it counts one. -/
theorem randomIsMasked : Obligations.RandomIsMasked := by
  refine fun s x nn => ⟨decode_formatXI_rnd x nn, _, rfl, fun k _ => ?_, takeRnd_consumes_one s,
    congrArg (· + 2) s.takeRnd_pc, keepsExcept_takeRnd_writeV_advance s x _⟩
  rw [readV_dest_takeRnd_writeV_advance, BitVec.getLsbD_and]

/-- Settles O30: the two forms of the random input, each with the byte it gives and what is left of it. -/
theorem randomByteIsConsumed : Obligations.RandomByteIsConsumed := by
  refine fun s x nn => ⟨_, rfl, fun b rest h => ?_, fun h => ?_⟩ <;>
    rw [readV_dest_takeRnd_writeV_advance, State.advance_randoms, State.writeV_randoms, State.advance_rndDraws,
      State.writeV_rndDraws]
  · rw [rndIn_of_cons h, takeRnd_of_cons h]
    exact ⟨rfl, rfl, rfl⟩
  · rw [rndIn_of_nil h, takeRnd_of_nil h]
    exact ⟨rfl, h, rfl⟩

end Sys2Proof
end

section
/-! Proofs of 46_display. What a draw does to pixels and collision is said once for the sprite a state draws, in terms of the pixels it covers; both statements about DXYN, and the second draw of a pair, are read off it. -/

namespace Sys2Proof
open Machine

/-! ## Decoding the word (30_encoding R105) -/

theorem decode_formatXY_drw (x y : RegIdx) (n : BitVec 4) : decode (formatXY 0xD x y n) = .instr (.drw x y n) := by
  simp [decode]

/-! ## What writing DISP leaves unchanged -/

/-- A state that differs only in DISP, the V registers and PC has every part but the display unchanged. -/
theorem same_of_disp_v_pc (s : State) (d : Display) (v : Vector Byte 16) (pc : Word) {p : Part}
    (hp : p ∉ [Part.display]) : s.same { s with disp := d, v := v, pc := pc } p := by
  cases p <;> simp [State.same] at hp ⊢

theorem keepsExcept_setDisp_advance (s : State) (d : Display) : s.keepsExcept (s.setDisp d).advance [] [.display] :=
  ⟨fun _ _ => rfl, fun _ hp => same_of_disp_v_pc s d s.v _ hp⟩

/-- Every pixel of the cleared display is off. -/
theorem pixel_zero (px py : Nat) : (0 : Display).pixel px py = false := BitVec.getLsbD_zero

/-! ## The pixels a sprite covers (R310) -/

/-- Every set bit of a sprite lands on some pixel, wherever the sprite is drawn: each place wraps onto the grid. -/
theorem exists_spriteCovers_iff {m : Memory} {base n : Nat} (x0 y0 : Nat) (hn : n ≤ 32) :
    (∃ px py, px < 64 ∧ py < 32 ∧ spriteCovers m base n x0 y0 px py = true) ↔
      ∃ r c, spriteBit m base n r c = true := by
  constructor
  · rintro ⟨px, py, -, -, h⟩
    exact ⟨rowOffset y0 py, colOffset x0 px, h⟩
  · rintro ⟨r, c, h⟩
    have hbounds : r < n ∧ c < 8 := by
      simp only [spriteBit, Bool.and_eq_true, decide_eq_true_eq] at h
      exact h.1
    have hpx : (x0 + c) % displayW < 64 := Nat.mod_lt _ (by decide)
    have hpy : (y0 + r) % displayH < 32 := Nat.mod_lt _ (by decide)
    have hcol : colOffset x0 ((x0 + c) % displayW) = c := (colOffset_eq_iff hpx (by omega)).1 rfl
    have hrow : rowOffset y0 ((y0 + r) % displayH) = r := (rowOffset_eq_iff hpy (by omega)).1 rfl
    refine ⟨_, _, hpx, hpy, ?_⟩
    change spriteBit m base n (rowOffset _ _) (colOffset _ _) = true
    rw [hrow, hcol, h]

/-- Whether the sprite that `DRW Vx, Vy, N` draws in this state covers the pixel with a set bit. -/
def coversPixel (s : State) (x y : RegIdx) (n : BitVec 4) (px py : Nat) : Bool :=
  spriteCovers s.mem s.i.toNat n.toNat (s.readV x).toNat (s.readV y).toNat px py

section
variable (s : State) (x y : RegIdx) (n : BitVec 4)

/-- Drawing toggles exactly the covered pixels (R312). -/
theorem pixel_sprite {px py : Nat} (hpx : px < 64) (hpy : py < 32) :
    (s.sprite x y n).disp.pixel px py = (s.disp.pixel px py != coversPixel s x y n px py) :=
  (drawSprite_spec _ _ _ _ _ _ (by omega)).1 px py hpx hpy

/-- The collision: some covered pixel was on (R313). -/
theorem hit_sprite_iff : (s.sprite x y n).hit = true ↔
    ∃ px py, px < 64 ∧ py < 32 ∧ s.disp.pixel px py = true ∧ coversPixel s x y n px py = true :=
  (drawSprite_spec _ _ _ _ _ _ (by omega)).2

/-- The collision by the display before and after: some pixel that was on is off (R313). -/
theorem hit_sprite_iff_turned_off : (s.sprite x y n).hit = true ↔
    ∃ px py, px < 64 ∧ py < 32 ∧ s.disp.pixel px py = true ∧ (s.sprite x y n).disp.pixel px py = false := by
  rw [hit_sprite_iff]
  refine exists₂_congr fun px py => and_congr_right fun hpx => and_congr_right fun hpy => and_congr_right fun hon => ?_
  rw [pixel_sprite s x y n hpx hpy, hon]
  simp

/-! ## The state after a draw that completes (R312) -/

/-- The state in which `DRW Vx, Vy, N` completes. -/
def afterDraw : State := ((s.setDisp (s.sprite x y n).disp).writeFlag (s.sprite x y n).hit).advance

@[simp] theorem afterDraw_disp : (afterDraw s x y n).disp = (s.sprite x y n).disp := rfl
@[simp] theorem afterDraw_mem : (afterDraw s x y n).mem = s.mem := rfl
@[simp] theorem afterDraw_i : (afterDraw s x y n).i = s.i := rfl

theorem readV_vf_afterDraw : (afterDraw s x y n).readV 0xF = flagByte (s.sprite x y n).hit :=
  State.readV_writeFlag_vf _ _

theorem readV_afterDraw_of_ne {k : RegIdx} (hk : k ≠ 0xF) : (afterDraw s x y n).readV k = s.readV k :=
  State.readV_writeFlag_of_ne _ _ hk

theorem keepsExcept_afterDraw : s.keepsExcept (afterDraw s x y n) [0xF] [.display] :=
  ⟨fun _ hk => readV_afterDraw_of_ne s x y n (List.ne_of_not_mem_cons hk), fun _ hp => same_of_disp_v_pc s _ _ _ hp⟩

/-- The draw moves neither the sprite nor its place where they are read from registers other than VF. -/
theorem coversPixel_afterDraw (hx : x ≠ 0xF) (hy : y ≠ 0xF) :
    coversPixel (afterDraw s x y n) x y n = coversPixel s x y n := by
  funext px py
  simp only [coversPixel, afterDraw_mem, afterDraw_i, readV_afterDraw_of_ne s x y n hx, readV_afterDraw_of_ne s x y n hy]

theorem exec_drw : exec (.drw x y n) s =
    if rangeInMemory s.i.toNat n.toNat then .next (afterDraw s x y n) else raiseError s .outOfBounds := rfl

end

/-- A range lies in MEM exactly if it is empty or its last byte does. -/
theorem rangeInMemory_iff_last (base len : Nat) :
    rangeInMemory base len = true ↔ len = 0 ∨ base + len - 1 ≤ 0xFFF := by
  rw [rangeInMemory_iff]
  omega

section
variable {s : State} {x y : RegIdx} {n : BitVec 4}

/-- A sprite read past the end of MEM raises OutOfBounds (R312). -/
theorem takesError_drw (hn : n.toNat ≥ 1) (hlast : s.i.toNat + n.toNat - 1 > 0xFFF) :
    TakesError (.drw x y n) s .outOfBounds := by
  have hout : ¬ rangeInMemory s.i.toNat n.toNat = true := by
    rw [rangeInMemory_iff_last]
    omega
  exact (exec_drw s x y n).trans (if_neg hout)

/-- A sprite that lies in MEM is drawn (R312). -/
theorem completesWith_drw {P : State → Prop} (hin : n.toNat = 0 ∨ s.i.toNat + n.toNat - 1 ≤ 0xFFF)
    (hP : P (afterDraw s x y n)) : CompletesWith (.drw x y n) s P :=
  ⟨_, (exec_drw s x y n).trans (if_pos ((rangeInMemory_iff_last _ _).2 hin)), hP⟩

/-! ## A second draw of the same sprite -/

/-- The second draw toggles the pixels of the first back. -/
theorem afterDraw_afterDraw_disp (hx : x ≠ 0xF) (hy : y ≠ 0xF) :
    (afterDraw (afterDraw s x y n) x y n).disp = s.disp := by
  refine Display.ext_pixels fun px py hpx hpy => ?_
  rw [afterDraw_disp, pixel_sprite _ x y n hpx hpy, coversPixel_afterDraw s x y n hx hy, afterDraw_disp,
    pixel_sprite s x y n hpx hpy, Bool.bne_assoc, bne_self_eq_false, Bool.bne_false]

/-- On a clear display a draw meets no pixel that is on. -/
theorem hit_sprite_of_clear (hclear : s.disp = 0) : (s.sprite x y n).hit = false := by
  rw [Bool.eq_false_iff, ne_eq, hit_sprite_iff, hclear]
  rintro ⟨px, py, -, -, hon, -⟩
  exact absurd hon (Bool.eq_false_iff.1 (pixel_zero px py))

/-- After a first draw on a clear display exactly the covered pixels are on, so the second one collides exactly if the sprite has a set bit. -/
theorem hit_second_sprite_of_clear_iff (hx : x ≠ 0xF) (hy : y ≠ 0xF) (hclear : s.disp = 0) :
    ((afterDraw s x y n).sprite x y n).hit = true ↔ ∃ r c, spriteBit s.mem s.i.toNat n.toNat r c = true := by
  rw [hit_sprite_iff, coversPixel_afterDraw s x y n hx hy, ← exists_spriteCovers_iff (s.readV x).toNat (s.readV y).toNat (by omega)]
  refine exists₂_congr fun px py => and_congr_right fun hpx => and_congr_right fun hpy => ?_
  rw [afterDraw_disp, pixel_sprite s x y n hpx hpy, hclear, pixel_zero, Bool.false_bne, and_self]
  rfl

end

/-! ## The statements -/

/-- Settles O32: the display takes 0, in which every pixel is off. -/
theorem clearTurnsPixelsOff : Obligations.ClearTurnsPixelsOff := fun s =>
  ⟨rfl, _, rfl, fun px py _ _ => pixel_zero px py, rfl, keepsExcept_setDisp_advance s 0⟩

/-- Settles O33: the range check decides between the error and the draw, and VF is the collision, which is whether some pixel was turned off. -/
theorem drawTogglesSprite : Obligations.DrawTogglesSprite := by
  refine fun s x y n => ⟨decode_formatXY_drw x y n, takesError_drw, fun hin => completesWith_drw hin
    ⟨fun px py => pixel_sprite s x y n, fun hoff => ?_, fun hkept => ?_, rfl, keepsExcept_afterDraw s x y n⟩⟩
  · rw [readV_vf_afterDraw, (hit_sprite_iff_turned_off s x y n).2 hoff]
    rfl
  · have hmiss : (s.sprite x y n).hit = false := by
      rw [Bool.eq_false_iff, ne_eq, hit_sprite_iff_turned_off]
      rintro ⟨px, py, hpx, hpy, hon, hoff⟩
      exact absurd (hkept px py hpx hpy hon) (Bool.eq_false_iff.1 hoff)
    rw [readV_vf_afterDraw, hmiss]
    rfl

/-- Settles O34: X and Y other than F keep the sprite's place, so the second draw meets the pixels of the first. -/
theorem drawTwiceRestores : Obligations.DrawTwiceRestores := by
  refine fun s x y n hx hy hin => completesWith_drw hin (completesWith_drw hin
    ⟨afterDraw_afterDraw_disp hx hy, fun hclear => ⟨?_, ?_⟩⟩)
  · rw [readV_vf_afterDraw, hit_sprite_of_clear hclear]
    rfl
  · rw [readV_vf_afterDraw, flagByte_eq_one, hit_second_sprite_of_clear_iff hx hy hclear]

end Sys2Proof
end

section
/-! Proofs of 47_timers. The state a TICK answers is named once, with each part a statement asks about; a run of TICKs is an induction over it. The timer instructions each write one register or one timer and advance PC. -/

namespace Sys2Proof
open Machine

/-! ## What one TICK does (R345) -/

/-- The state a TICK answers. -/
def afterTick (s : State) : State := (s.tick.respond .nothing).dropCommand

/-- A TICK is performed whatever ERR holds. -/
theorem step_of_tick {s : State} {rest : List Command} (h : s.pending = .tick :: rest) :
    step s = .next (afterTick s) := by
  rw [step, transact, h, afterTick]

theorem afterTick_dt_toNat (s : State) : (afterTick s).dt.toNat = s.dt.toNat - 1 := countDown_toNat s.dt

theorem afterTick_st_toNat (s : State) : (afterTick s).st.toNat = s.st.toNat - 1 := countDown_toNat s.st

/-- A TICK changes no element of the core but the timers. -/
theorem afterTick_snapshot (s : State) :
    (afterTick s).snapshot = { s.snapshot with dt := (afterTick s).dt, st := (afterTick s).st } := rfl

theorem afterTick_pending {s : State} {rest : List Command} (h : s.pending = .tick :: rest) :
    (afterTick s).pending = rest := congrArg List.tail h

/-! ## What writing a timer leaves unchanged -/

theorem keepsExcept_setDT_advance (s : State) (b : Byte) : s.keepsExcept (s.setDT b).advance [] [.delay] := by
  refine ⟨fun _ _ => rfl, fun p hp => ?_⟩
  cases p <;> simp [State.same] at hp ⊢

theorem keepsExcept_setST_advance (s : State) (b : Byte) : s.keepsExcept (s.setST b).advance [] [.sound] := by
  refine ⟨fun _ _ => rfl, fun p hp => ?_⟩
  cases p <;> simp [State.same] at hp ⊢

/-! ## The sound output (R344) -/

theorem soundOn_iff (s : State) : s.soundOn = true ↔ s.st.toNat ≠ 0 :=
  bne_iff_ne.trans BitVec.toNat_ne_iff_ne.symm

/-! ## The statements -/

/-- Settles O37, by induction on the number of TICKs: the first counts each timer down once, the rest n times. -/
theorem ticksReachZero : Obligations.TicksReachZero := by
  intro n
  induction n with
  | zero => exact fun s rest hp => ⟨s, rfl, rfl, rfl, rfl, hp⟩
  | succ n ih =>
    intro s rest hp
    obtain ⟨t, hrun, hdt, hst, hsnap, hrest⟩ := ih (afterTick s) rest (afterTick_pending hp)
    rw [afterTick_dt_toNat] at hdt
    rw [afterTick_st_toNat] at hst
    rw [afterTick_snapshot] at hsnap
    exact ⟨t, (core_run_succ core n s _ (step_of_tick hp)).trans hrun, by omega, by omega, hsnap, hrest⟩

/-- Settles O35: FX07 writes V[x], FX15 and FX18 write one timer each, and all three advance. -/
theorem timerMoves : Obligations.TimerMoves := fun s x =>
  ⟨⟨decode_formatXI_misc x 0x07, _, rfl, s.readV_writeV_self x s.dt, rfl, keepsExcept_writeV_advance s x _⟩,
    ⟨decode_formatXI_misc x 0x15, _, rfl, rfl, rfl, keepsExcept_setDT_advance s _⟩,
    ⟨decode_formatXI_misc x 0x18, _, rfl, rfl, rfl, keepsExcept_setST_advance s _⟩⟩

/-- Settles O36: a TICK counts both timers down, and its response is nothing. -/
theorem tickCountsTimersDown : Obligations.TickCountsTimersDown := fun s _ hp =>
  ⟨afterTick s, step_of_tick hp, afterTick_dt_toNat s, afterTick_st_toNat s, afterTick_snapshot s, rfl,
    afterTick_pending hp⟩

/-- Settles O38: the output reads ST, which a TICK leaves above 0 exactly if it was above 1. -/
theorem toneFollowsSoundTimer : Obligations.ToneFollowsSoundTimer := by
  refine ⟨soundOn_iff, fun s _ hp => ⟨afterTick s, step_of_tick hp, ?_⟩, fun s x => ⟨_, rfl, soundOn_iff _⟩⟩
  rw [soundOn_iff, afterTick_st_toNat]
  omega

end Sys2Proof
end

section
/-! Proofs of 48_keypad. EX9E and EXA1 are skips on one key (R362, R363). FX0A either leaves the state as it is or stores the lowest new key and advances (R364); the first, and a jump to itself, are the instructions that leave a run where it is (R365, 70_reset_and_hazards R462). No other instruction reads the sample: it commutes with replacing the commands that carry it. -/

namespace Sys2Proof
open Machine

/-! ## Decoding the words of the family (30_encoding R105) -/

/-- Family 0xE is decoded by its trailing byte alone. -/
theorem decode_formatXI_key (x : RegIdx) (nn : Byte) : decode (formatXI 0xE x nn) = decodeKey x nn := by
  simp [decode]

/-! ## FX0A by the lowest new key (R364) -/

theorem writeV_readV_self (s : State) (x : RegIdx) : s.writeV x (s.readV x) = s := by
  rw [State.writeV, State.readV, Vector.set_getElem_self]

/-- With no new key FX0A changes nothing. -/
theorem waitKey_of_none {s : State} {x : RegIdx} (h : lowestKey s.newKeys = none) : s.waitKey x = s := by
  rw [State.waitKey, h]
  exact congrArg (State.jumpTo · s.pc) (writeV_readV_self s x)

theorem waitKey_of_some {s : State} {x : RegIdx} {k : Nat} (h : lowestKey s.newKeys = some k) :
    s.waitKey x = (s.writeV x (BitVec.ofNat 8 k)).advance := by
  rw [State.waitKey, h]
  rfl

/-- A key pressed before is not new. -/
theorem getLsbD_newKeys_eq_false {s : State} {k : Nat} (hk : k < 16)
    (h : s.keysIn.getLsbD k = true → s.prevKeys.getLsbD k = true) : s.newKeys.getLsbD k = false := by
  rw [s.getLsbD_newKeys k hk]
  cases hnow : s.keysIn.getLsbD k with
  | false => rfl
  | true => rw [h hnow]; rfl

/-- No key is new where every pressed key was pressed before. -/
theorem lowestKey_newKeys_eq_none {s : State}
    (h : ∀ k, k < 16 → s.keysIn.getLsbD k = true → s.prevKeys.getLsbD k = true) : lowestKey s.newKeys = none :=
  (lowestKey_eq_none _).2 fun k hk => getLsbD_newKeys_eq_false hk (h k hk)

/-- A key pressed now and not before is the lowest new one where every lower pressed key was pressed before. -/
theorem lowestKey_newKeys_eq_some {s : State} {k : Nat} (hk : k < 16) (hnow : s.keysIn.getLsbD k = true)
    (hbefore : s.prevKeys.getLsbD k = false)
    (hlow : ∀ j, j < k → s.keysIn.getLsbD j = true → s.prevKeys.getLsbD j = true) :
    lowestKey s.newKeys = some k := by
  rw [lowestKey_eq_some]
  refine ⟨hk, ?_, fun j hj => getLsbD_newKeys_eq_false (by omega) (hlow j hj)⟩
  rw [s.getLsbD_newKeys k hk, hnow, hbefore]
  rfl

/-- COMMIT records the sample (40_step_cycle R146). -/
theorem finishStep_prevKeys_of_ok {s : State} (h : s.err = 0) : s.finishStep.prevKeys = s.keysIn := by
  have hsnap : s.finishStep.snapshot = s.committed s.keysIn := by rw [State.finishStep_snapshot, if_pos h]
  exact congrArg Snapshot.prevKeys hsnap

/-! ## The keypad input replaced (10_state R62) -/

/-- The state with other commands listed and another draw count: together they give the keypad sample. -/
def withCommands (cmds : List Command) (n : Nat) (s : State) : State := { s with pending := cmds, keyDraws := n }

section
variable (cmds : List Command) (n : Nat) (s : State)

theorem pushReturn_withCommands (ret : Word) :
    (withCommands cmds n s).pushReturn ret = (s.pushReturn ret).map (withCommands cmds n) := by
  symm
  exact apply_dite (Option.map _) _ _ _

theorem popReturn_withCommands : (withCommands cmds n s).popReturn = s.popReturn.map (withCommands cmds n) := by
  symm
  exact apply_dite (Option.map _) _ _ _

theorem loadRegs_withCommands (a len : Nat) :
    (withCommands cmds n s).loadRegs a len = withCommands cmds n (s.loadRegs a len) :=
  List.foldl_hom (withCommands cmds n) fun _ _ => rfl

theorem takeRnd_withCommands : (withCommands cmds n s).takeRnd = withCommands cmds n s.takeRnd := by
  cases h : s.randoms with
  | nil => rw [takeRnd_of_nil h, takeRnd_of_nil (s := withCommands cmds n s) h]; rfl
  | cons b rest => rw [takeRnd_of_cons h, takeRnd_of_cons (s := withCommands cmds n s) h]; rfl

/-- Every instruction but the three of the keypad commutes with replacing the keypad input. SYS branches on its policy, CALL and RET on the stack, the accesses to MEM on their range, and CXNN takes a random byte; every other arm is a chain of updates of other fields. -/
theorem exec_withCommands {i : Instr} (hskp : ∀ x, i ≠ .skp x) (hsknp : ∀ x, i ≠ .sknp x)
    (hwait : ∀ x, i ≠ .ldVxK x) :
    exec i (withCommands cmds n s) = mapNext (withCommands cmds n) (exec i s) := by
  cases i
  case skp x => exact absurd rfl (hskp x)
  case sknp x => exact absurd rfl (hsknp x)
  case ldVxK x => exact absurd rfl (hwait x)
  case sys nnn =>
    dsimp only [exec, execSys, withCommands]
    cases s.params.sysPolicy <;> rfl
  case call nnn =>
    dsimp only [exec, execCall]
    rw [pushReturn_withCommands, apply_ite (mapNext _)]
    refine if_congr Iff.rfl rfl ?_
    dsimp only [withCommands]
    cases s.pushReturn (s.pc + 2) <;> rfl
  case ret =>
    dsimp only [exec, execRet]
    rw [popReturn_withCommands, apply_ite (mapNext _)]
    refine if_congr Iff.rfl rfl ?_
    cases s.popReturn <;> rfl
  case rnd x nn =>
    dsimp only [exec, execRnd]
    rw [takeRnd_withCommands]
    rfl
  case ldVxMem x =>
    dsimp only [exec, execLdVxMem]
    rw [loadRegs_withCommands, apply_ite (mapNext _)]
    rfl
  case drw | ldBVx | ldMemVx =>
    symm
    exact apply_ite (mapNext _) _ _ _
  all_goals rfl

end

/-! ## States that stay (R365, 70_reset_and_hazards R462) -/

/-- The class of an instruction: Running, or Waiting at FX0A with no new key, or Spinning at a jump to itself. -/
theorem classOf_cases (pc : Word) (new : Bool) (d : Decoded) :
    classOf pc new d = .running ∨
    (classOf pc new d = .waiting ∧ new = false ∧ ∃ x, d = .instr (.ldVxK x)) ∨
    (classOf pc new d = .spinning ∧ ∃ nnn, addrOperand nnn = pc ∧ d = .instr (.jp nnn)) := by
  unfold classOf
  split
  · cases new <;> simp
  · split <;> simp [*]
  · exact Or.inl rfl

theorem classOf_ne_faulted (pc : Word) (new : Bool) (d : Decoded) : classOf pc new d ≠ .faulted := by
  rcases classOf_cases pc new d with h | ⟨h, -⟩ | ⟨h, -⟩ <;> rw [h] <;> decide

/-- Faulted says that an error is latched. -/
theorem err_ne_zero_of_faulted {s : State} (h : s.runClass = .faulted) : s.err ≠ 0 := by
  intro he
  rw [State.runClass, if_pos he] at h
  split at h
  · cases h
  · exact classOf_ne_faulted _ _ _ h

/-- A STEP whose instruction answers a next state ends by committing or aborting that state (40_step_cycle R148). -/
theorem step_of_exec {s t : State} {w : Word} {i : Instr} (hs : s.stepNext = true) (he : s.err = 0)
    (hf : s.fetch = some w) (hd : decode w = .instr i) (hi : exec i s = .next t) : step s = .next t.finishStep := by
  have hrun : runInstruction s = .next t := by simp only [runInstruction, hf, hd, hi]
  rw [step_of_stepNext hs, stepCommand, if_pos he, hrun]

/-- FX0A where no key press is new. -/
theorem exec_ldVxK_of_no_newKeys {s : State} (x : RegIdx) (h : s.newKeys = 0) : exec (.ldVxK x) s = .next s := by
  have hnone : lowestKey s.newKeys = none := by
    rw [h, lowestKey_eq_none]
    exact fun _ _ => BitVec.getLsbD_zero
  exact congrArg Host.Outcome.next (waitKey_of_none hnone)

/-- A jump to its own address. -/
theorem exec_jp_of_self {s : State} {nnn : Addr12} (h : addrOperand nnn = s.pc) : exec (.jp nnn) s = .next s := by
  change Host.Outcome.next (s.jumpTo (addrOperand nnn)) = _
  rw [h]
  rfl

/-- Where the class is neither Faulted nor Running, the instruction at PC leaves the state as it is. -/
theorem exists_exec_self {s : State} (hs : s.stepNext = true) (h : s.runClass = .waiting ∨ s.runClass = .spinning) :
    s.err = 0 ∧ ∃ w i, s.fetch = some w ∧ decode w = .instr i ∧ exec i s = .next s := by
  unfold State.runClass at h
  split at h
  · next he =>
    refine ⟨he, ?_⟩
    split at h
    · rcases h with h | h <;> cases h
    · next w hf =>
      rw [s.nextSample_of_stepNext hs] at h
      rcases classOf_cases s.pc (s.newKeys != 0) (decode w) with hrunning | ⟨-, hnew, x, hd⟩ | ⟨-, nnn, hpc, hd⟩
      · rcases h with h | h <;> cases hrunning.symm.trans h
      · exact ⟨w, _, hf, hd, exec_ldVxK_of_no_newKeys x (bne_eq_false_iff_eq.1 hnew)⟩
      · exact ⟨w, _, hf, hd, exec_jp_of_self hpc⟩
  · rcases h with h | h <;> cases h

/-- A TICK moves nothing that the class reads: PC, MEM, ERR, PREV_KEYS and the sample of the next STEP. -/
theorem afterTick_runClass {s : State} {rest : List Command} (h : s.pending = .tick :: rest) :
    (afterTick s).runClass = s.runClass := by
  have hsample : (afterTick s).nextSample = s.nextSample :=
    State.nextSample_of_cons s _ .tick rest rfl h (afterTick_pending h) rfl
  rw [State.runClass, hsample]
  rfl

/-! ## The statements -/

/-- Settles O40: by the lowest new key, FX0A is the identity or one register write; it touches neither the sample nor ERR, so its STEP commits. -/
theorem waitForKey : Obligations.WaitForKey := by
  refine fun s x => ⟨decode_formatXI_misc x 0x0A, s.waitKey x, rfl, fun hold => ?_, fun k hk hnow hbefore hlow => ?_,
    fun he => ?_⟩
  · rw [waitKey_of_none (lowestKey_newKeys_eq_none hold)]
    exact ⟨rfl, fun _ _ => rfl, fun p _ => same_of_v_pc s s.v s.pc p⟩
  · rw [waitKey_of_some (lowestKey_newKeys_eq_some hk hnow hbefore hlow)]
    refine ⟨?_, rfl, keepsExcept_writeV_advance s x _⟩
    rw [State.readV_advance, State.readV_writeV_self, BitVec.toNat_ofNat, Nat.mod_eq_of_lt (by omega)]
  · rw [finishStep_prevKeys_of_ok (s := s.waitKey x) he]
    exact State.keysIn_congr rfl rfl

/-- Settles O41: replacing the keypad input before the instruction is replacing it after. -/
theorem keypadInputOnlyForKeys : Obligations.KeypadInputOnlyForKeys := fun _ s cmds n hskp hsknp hwait =>
  exec_withCommands cmds n s hskp hsknp hwait

/-- Settles O57: the three ends of a run are a latched STEP and the two instructions that are the identity. -/
theorem endedRunsStay : Obligations.EndedRunsStay := by
  refine fun s => ⟨fun hs hfaulted => ?_, fun hs hclass => ?_, fun rest hp => ?_⟩
  · exact ⟨s.latchedStep, step_of_latched hs (err_ne_zero_of_faulted hfaulted), s.latchedStep_snapshot⟩
  · obtain ⟨he, w, i, hf, hd, hi⟩ := exists_exec_self hs hclass
    exact ⟨s.finishStep, step_of_exec hs he hf hd hi, s.finishStep_snapshot.trans (if_pos he),
      s.finishStep_response.trans (if_pos he)⟩
  · exact ⟨afterTick s, step_of_tick hp, afterTick_runClass hp⟩

/-- Settles O39: both are skips, on the key that V[x] names and on its negation. -/
theorem skipOnKey : Obligations.SkipOnKey := by
  refine fun s x => ⟨⟨decode_formatXI_key x 0x9E, completesWith_skipIf rfl (keyPressed_iff _ _)⟩,
    ⟨decode_formatXI_key x 0xA1, ?_⟩⟩
  have hnot : (!keyPressed s.keysIn (s.readV x)) = true ↔
      ¬ ((s.readV x).toNat ≤ 0x0F ∧ s.keysIn.getLsbD (s.readV x).toNat = true) := by
    rw [Bool.not_eq_true', ← Bool.not_eq_true, keyPressed_iff]
  simpa only [ite_not] using completesWith_skipIf (i := .sknp x) rfl hnot

end Sys2Proof
end

section
/-! Proofs of 49_legacy: 0NNN is decoded by its address, and what SYS does is decided by SYS_POLICY alone (R391). -/

namespace Sys2Proof
open Machine

/-! ## Decoding the words of family 0x0 (30_encoding R105, R107) -/

/-- Family 0x0 is decoded by its address alone. -/
theorem decode_formatA_zero (nnn : Addr12) : decode (formatA 0x0 nnn) = decodeZero nnn := by
  simp [decode]

/-- An address that is not carved out for CLS or RET is one of SYS. -/
theorem decodeZero_of_ne {nnn : Addr12} (hcls : nnn ≠ 0x0E0) (hret : nnn ≠ 0x0EE) :
    decodeZero nnn = .instr (.sys nnn) := by
  unfold decodeZero
  split
  · exact absurd rfl hcls
  · exact absurd rfl hret
  · rfl

/-! ## SYS under each policy (R391) -/

theorem exec_sys_of_unsupported {s : State} (nnn : Addr12) (h : s.params.sysPolicy = .unsupported) :
    exec (.sys nnn) s = raiseError s .unsupported := by
  change execSys nnn s = _
  rw [execSys, h]

theorem exec_sys_of_nop {s : State} (nnn : Addr12) (h : s.params.sysPolicy = .nop) :
    exec (.sys nnn) s = .next s.advance := by
  change execSys nnn s = _
  rw [execSys, h]

/-! ## The statement -/

/-- Settles O42: outside the two carved-out addresses the word is SYS, which raises the error or is a jump to PC + 2. -/
theorem sysFollowsPolicy : Obligations.SysFollowsPolicy := fun s nnn =>
  ⟨fun hcls hret => (decode_formatA_zero nnn).trans (decodeZero_of_ne hcls hret),
    exec_sys_of_unsupported nnn,
    fun hnop => ⟨s.advance, exec_sys_of_nop nnn hnop, rfl, keepsExcept_jumpTo s (s.pc + 2)⟩⟩

end Sys2Proof
end

section
/-! Proofs of 30_encoding, from the other side: the decoder reads back the fields the encoder wrote (section 2), and the words it rejects, family by family, are the rows of the table of R110 (section 3). -/

namespace Sys2Proof

/-! ## Decoding an encoded instruction -/

/-- Settles O2: the word of each instruction has the family nibble of its row, and its family's decoder finds the fixed fields of that row; only SYS needs to be well-formed, to stand clear of the words of CLS and RET (R107). -/
theorem decodeInvertsEncode : Obligations.DecodeInvertsEncode := by
  intro i hw
  cases i with
  | sys nnn =>
    obtain ⟨hcls, hret⟩ : nnn ≠ 0x0E0 ∧ nnn ≠ 0x0EE := by simpa [Instr.wellFormed] using hw
    exact (decode_formatA_zero nnn).trans (decodeZero_of_ne hcls hret)
  | cls | ret => rfl
  | seReg x y => exact decode_formatXY_seReg x y 0
  | sneReg x y => exact decode_formatXY_sneReg x y 0
  | ldReg x y | or x y | and x y | xor x y | addReg x y | sub x y | shr x y | subn x y | shl x y =>
    exact decode_formatXY_alu x y _
  | skp x | sknp x => exact decode_formatXI_key x _
  | ldVxDT x | ldVxK x | ldDTVx x | ldSTVx x | addIVx x | ldFVx x | ldBVx x | ldMemVx x | ldVxMem x =>
    exact decode_formatXI_misc x _
  | jp nnn => exact decode_formatA_jp nnn
  | call nnn => exact decode_formatA_call nnn
  | ldI nnn => exact decode_formatA_ldI nnn
  | jpV0 nnn => exact decode_formatA_jpV0 nnn
  | seByte x nn => exact decode_formatXI_seByte x nn
  | sneByte x nn => exact decode_formatXI_sneByte x nn
  | ldByte x nn => exact decode_formatXI_ldByte x nn
  | addByte x nn => exact decode_formatXI_addByte x nn
  | rnd x nn => exact decode_formatXI_rnd x nn
  | drw x y n => exact decode_formatXY_drw x y n

/-! ## The words each family rejects (R110) -/

theorem decodeZero_ne_unknownOpcode (nnn : Addr12) : decodeZero nnn ≠ .unknownOpcode := by
  unfold decodeZero
  split <;> simp

theorem decodeAlu_eq_unknownOpcode_iff (x y : RegIdx) (n : BitVec 4) :
    decodeAlu x y n = .unknownOpcode ↔ n ∈ [0x8#4, 0x9#4, 0xA#4, 0xB#4, 0xC#4, 0xD#4, 0xF#4] := by
  unfold decodeAlu
  split
  case h_10 =>
    simp only [imp_false, List.mem_cons, List.not_mem_nil, or_false, true_iff] at *
    bv_omega
  all_goals simp

theorem decodeKey_eq_unknownOpcode_iff (x : RegIdx) (nn : Byte) :
    decodeKey x nn = .unknownOpcode ↔ nn ∉ [0x9E#8, 0xA1#8] := by
  unfold decodeKey
  split
  case h_3 hskp hsknp => simpa using ⟨hskp, hsknp⟩
  all_goals simp

theorem decodeMisc_eq_unknownOpcode_iff (x : RegIdx) (nn : Byte) :
    decodeMisc x nn = .unknownOpcode ↔
      nn ∉ [0x07#8, 0x0A#8, 0x15#8, 0x18#8, 0x1E#8, 0x29#8, 0x33#8, 0x55#8, 0x65#8] := by
  unfold decodeMisc
  split
  case h_10 => simp_all only [imp_false, List.mem_cons, List.not_mem_nil, or_false, not_false_iff]
  all_goals simp

/-! ## The statements -/

/-- Settles O4, by the families of R105: in `h_k` the family nibble is `k - 1`, and the other families' rows of the table are excluded by it. -/
theorem illegalWordsAreTheTable : Obligations.IllegalWordsAreTheTable := by
  intro w
  unfold decode
  split
  case h_1 hop => simp [hop, decodeZero_ne_unknownOpcode]
  case h_6 hop | h_10 hop => simp [hop]
  case h_9 hop => simp [hop, decodeAlu_eq_unknownOpcode_iff]
  case h_15 hop => simp [hop, decodeKey_eq_unknownOpcode_iff]
  case h_16 =>
    have hop : fieldOp w = 0xF#4 := by
      simp only [imp_false] at *
      bv_omega
    simp [hop, decodeMisc_eq_unknownOpcode_iff]
  all_goals next hop => simp [hop]

/-- Settles O1, by running the decoder on each word. -/
theorem knownWordsDecode : Obligations.KnownWordsDecode := by
  unfold Obligations.KnownWordsDecode
  decide

end Sys2Proof
end

section
/-! Proofs of 10_state: who may write each part of the state, and what every command keeps. Which instruction writes a part is said once for all of them; the invariants on SP, MEM, PC and the return addresses then look only at the writers of their own part. -/

namespace Sys2Proof
open Machine

/-! ## What an instruction may write -/

/-- Settles O51, by the instruction: the state it answers differs only in the parts the list gives it. -/
theorem writersOfEachPart : Obligations.WritersOfEachPart := by
  intro i s t h
  cases i with
  | sys nnn => rcases execSys_next (nnn := nnn) h with ⟨-, rfl⟩ | ⟨-, rfl⟩ <;> simp
  | call nnn => rcases execCall_next h with ⟨-, rfl⟩ | ⟨-, rfl⟩ <;> simp
  | ret => rcases execRet_next h with ⟨-, rfl⟩ | ⟨-, -, rfl⟩ <;> simp
  | ldBVx x => rcases execLdBVx_next h with ⟨-, rfl⟩ | rfl <;> simp
  | ldMemVx x => rcases execLdMemVx_next h with ⟨-, rfl⟩ | rfl <;> simp
  | ldVxMem x => rcases execLdVxMem_next h with ⟨-, rfl⟩ | rfl <;> simp
  | drw x y n => rcases execDrw_next h with ⟨-, rfl⟩ | rfl <;> simp
  | _ => cases h; simp

/-- MEM changes only by a store that lies inside it. -/
theorem exec_mem {i : Instr} {s t : State} (h : exec i s = .next t) :
    t.mem = s.mem ∨ ∃ a bytes, a + bytes.length ≤ memSize ∧ t.mem = Memory.load bytes a s.mem := by
  by_cases hmem : t.mem = s.mem
  · exact Or.inl hmem
  obtain ⟨-, -, -, -, hwriters, -⟩ := writersOfEachPart i s t h
  rcases hwriters hmem with ⟨x, rfl⟩ | ⟨x, rfl⟩
  · rcases execLdBVx_next h with ⟨hrange, rfl⟩ | rfl
    · exact Or.inr ⟨_, _, hrange, rfl⟩
    · exact absurd rfl hmem
  · rcases execLdMemVx_next h with ⟨hrange, rfl⟩ | rfl
    · exact Or.inr ⟨_, _, (s.regBlock_length x).symm ▸ hrange, rfl⟩
    · exact absurd rfl hmem

/-- The call stack either keeps its entries while SP does not grow, or takes the address behind a CALL at SP, which grows by one (43_jump_call_return R232, R233). -/
theorem exec_stack_sp {i : Instr} {s t : State} (h : exec i s = .next t) :
    (t.stack = s.stack ∧ t.sp.toNat ≤ s.sp.toNat) ∨
      ∃ hlt : s.sp.toNat < 16, t.stack = s.stack.set s.sp.toNat (s.pc + 2) hlt ∧ t.sp.toNat = s.sp.toNat + 1 := by
  by_cases hcall : ∃ nnn, i = .call nnn
  · obtain ⟨nnn, rfl⟩ := hcall
    rcases execCall_next h with ⟨-, rfl⟩ | ⟨hlt, rfl⟩
    · exact Or.inl ⟨rfl, le_rfl⟩
    · exact Or.inr ⟨hlt, rfl, s.sp_succ hlt⟩
  · obtain ⟨-, hstack, hsp, -⟩ := writersOfEachPart i s t h
    refine Or.inl ⟨of_not_not fun hne => hcall (hstack hne), ?_⟩
    by_cases hkept : t.sp = s.sp
    · rw [hkept]
    · obtain rfl := (hsp hkept).resolve_left hcall
      rcases execRet_next h with ⟨-, rfl⟩ | ⟨hne, -, rfl⟩
      · exact le_rfl
      · exact (s.sp_pred hne).trans_le (Nat.sub_le _ _)

theorem skipIf_pc_mem (s : State) (c : Bool) : (s.skipIf c).pc ∈ [s.pc, s.pc + 2, s.pc + 4] := by
  cases c <;> simp

theorem waitKey_pc_mem (s : State) (x : RegIdx) : (s.waitKey x).pc ∈ [s.pc, s.pc + 2, s.pc + 4] := by
  cases h : lowestKey s.newKeys with
  | none => simp [waitKey_of_none h]
  | some k => simp [waitKey_of_some h]

/-- Where PC goes (10_state R36): at most two words on, to NNN, to NNN + V0, or to the return address below SP. -/
theorem exec_pc {i : Instr} {s t : State} (h : exec i s = .next t) :
    t.pc ∈ [s.pc, s.pc + 2, s.pc + 4] ∨ (∃ nnn, t.pc = addrOperand nnn) ∨ (∃ nnn v0, t.pc = offsetTarget nnn v0) ∨
      ∃ k : Fin 16, k.val < s.sp.toNat ∧ t.pc = s.stack[k.val] := by
  cases i with
  | sys nnn => rcases execSys_next (nnn := nnn) h with ⟨-, rfl⟩ | ⟨-, rfl⟩ <;> simp
  | call nnn => rcases execCall_next h with ⟨-, rfl⟩ | ⟨-, rfl⟩ <;> simp
  | ret =>
    rcases execRet_next h with ⟨-, rfl⟩ | ⟨hne, hlt, rfl⟩
    · simp
    · have hpos : s.sp.toNat ≠ 0 := fun e => hne (BitVec.eq_of_toNat_eq e)
      have hbelow : (s.sp - 1).toNat < s.sp.toNat := by rw [s.sp_pred hne]; omega
      exact Or.inr (Or.inr (Or.inr ⟨⟨_, hlt⟩, hbelow, rfl⟩))
  | ldBVx x => rcases execLdBVx_next h with ⟨-, rfl⟩ | rfl <;> simp
  | ldMemVx x => rcases execLdMemVx_next h with ⟨-, rfl⟩ | rfl <;> simp
  | ldVxMem x => rcases execLdVxMem_next h with ⟨-, rfl⟩ | rfl <;> simp
  | drw x y n => rcases execDrw_next h with ⟨-, rfl⟩ | rfl <;> simp
  | seByte | sneByte | seReg | sneReg | skp | sknp => cases h; exact Or.inl (skipIf_pc_mem s _)
  | ldVxK x => cases h; exact Or.inl (waitKey_pc_mem s x)
  | jp nnn => cases h; exact Or.inr (Or.inl ⟨nnn, rfl⟩)
  | jpV0 nnn => cases h; exact Or.inr (Or.inr (Or.inl ⟨nnn, _, rfl⟩))
  | _ => cases h; simp

/-! ## What a command does to MEM, PC and the call stack -/

/-- The two states agree on MEM, PC, STACK and SP, the parts the invariants speak of. -/
def SameControl (s t : State) : Prop := t.mem = s.mem ∧ t.pc = s.pc ∧ t.stack = s.stack ∧ t.sp = s.sp

theorem finishStep_sameControl (s : State) : SameControl s s.finishStep := by
  obtain ⟨hmem, -, -, hpc, hstack, hsp, -⟩ := s.finishStep_core
  exact ⟨hmem, hpc, hstack, hsp⟩

/-- Every command leaves these parts alone, or loads an image that fits, or executes an instruction fetched from MEM. -/
theorem step_control {s t : State} (h : step s = .next t) :
    SameControl s t ∨
    (∃ image : List Byte, image.length ≤ maxProgLen ∧ SameControl (s.loadImage image) t) ∨
    ∃ i u, s.pc.toNat + 1 ≤ 0xFFF ∧ exec i s = .next u ∧ SameControl u t := by
  rcases step_next h with ⟨rest, -, rfl⟩ | ⟨image, rest, -, rfl⟩ | ⟨-, hstep⟩
  · exact Or.inl ⟨rfl, rfl, rfl, rfl⟩
  · unfold State.init
    split
    · exact Or.inl ⟨rfl, rfl, rfl, rfl⟩
    · next hfits => exact Or.inr (Or.inl ⟨image, Nat.not_lt.1 hfits, rfl, rfl, rfl, rfl⟩)
  · rcases stepCommand_next hstep with ⟨-, rfl⟩ | ⟨-, u, hrun, rfl⟩
    · exact Or.inl ⟨rfl, rfl, rfl, rfl⟩
    · rcases runInstruction_next hrun with ⟨-, rfl⟩ | ⟨w, -, -, rfl⟩ | ⟨w, i, hfetch, -, hexec⟩
      · exact Or.inl (finishStep_sameControl (s.raise _))
      · exact Or.inl (finishStep_sameControl (s.raise _))
      · refine Or.inr (Or.inr ⟨i, u, of_not_not fun hpc => ?_, hexec, finishStep_sameControl u⟩)
        rw [State.fetch_eq, if_neg hpc] at hfetch
        cases hfetch

/-! ## The invariants -/

/-- An image that fits leaves MEM in its canonical form, whatever it held before. -/
theorem loadImage_mem_wf (s : State) {image : List Byte} (h : image.length ≤ maxProgLen) :
    (s.loadImage image).mem.wf :=
  Memory.load_wf image progBase _ (Memory.withFont_wf s.params) (by simp only [progBase, maxProgLen, memSize] at *; omega)

/-- Settles O52: SP grows only by a push, which needs a free entry. -/
theorem stackPointerStaysLegal : Obligations.StackPointerStaysLegal := by
  intro s t hs h
  rcases step_control h with ⟨-, -, -, hsp⟩ | ⟨image, -, -, -, -, hsp⟩ | ⟨i, u, -, hexec, -, -, -, hsp⟩ <;> rw [hsp]
  · exact hs
  · exact Nat.zero_le 16
  · rcases exec_stack_sp hexec with ⟨-, hle⟩ | ⟨hlt, -, hsucc⟩ <;> omega

/-- Settles O53: MEM is written only by INIT and by stores inside it. -/
theorem memoryStaysCanonical : Obligations.MemoryStaysCanonical := by
  intro s t hs h
  rcases step_control h with ⟨hmem, -⟩ | ⟨image, hfits, hmem, -⟩ | ⟨i, u, -, hexec, hmem, -⟩ <;> rw [hmem]
  · exact hs
  · exact loadImage_mem_wf s hfits
  · rcases exec_mem hexec with hkept | ⟨a, bytes, hrange, hload⟩
    · rwa [hkept]
    · rw [hload]
      exact Memory.load_wf bytes a s.mem hs hrange

/-- The bounds of R36 speak of PC, STACK and SP alone. -/
theorem pcBounded_of_sameControl {s t : State} (h : SameControl s t) (hs : s.pcBounded) : t.pcBounded := by
  obtain ⟨-, hpc, hstack, hsp⟩ := h
  unfold State.pcBounded
  rwa [hpc, hstack, hsp]

theorem loadImage_pcBounded (s : State) (image : List Byte) : (s.loadImage image).pcBounded :=
  ⟨(by decide : (0x200 : Word).toNat ≤ 0x10FE), Nat.zero_le _, fun _ hk => absurd hk (Nat.not_lt_zero _)⟩

/-- An instruction fetched from MEM keeps PC in bounds: it lies below 0xFFF, so two words on is at most 0x1002, and the largest jump is 0xFFF + 0xFF. -/
theorem exec_pc_bounded {i : Instr} {s t : State} (hs : s.pcBounded) (hpc : s.pc.toNat + 1 ≤ 0xFFF)
    (h : exec i s = .next t) : t.pc.toNat ≤ 0x10FE := by
  obtain ⟨-, -, hentries⟩ := hs
  rcases exec_pc h with hnear | ⟨nnn, htarget⟩ | ⟨nnn, v0, htarget⟩ | ⟨k, hk, htarget⟩
  · simp only [List.mem_cons, List.not_mem_nil, or_false] at hnear
    rcases hnear with e | e | e <;> rw [e] <;> bv_omega
  · rw [htarget, addrOperand_toNat]
    omega
  · rw [htarget, offsetTarget_toNat]
    omega
  · have hentry := hentries k hk
    rw [htarget]
    omega

/-- An instruction fetched from MEM keeps the bounds: the one address it can push is that behind a CALL below 0xFFF. -/
theorem exec_pcBounded {i : Instr} {s t : State} (hs : s.pcBounded) (hpc : s.pc.toNat + 1 ≤ 0xFFF)
    (h : exec i s = .next t) : t.pcBounded := by
  have hbound := exec_pc_bounded hs hpc h
  obtain ⟨-, hsp, hentries⟩ := hs
  rcases exec_stack_sp h with ⟨hstack, hle⟩ | ⟨hlt, hstack, hsucc⟩
  · refine ⟨hbound, hle.trans hsp, fun k hk => ?_⟩
    rw [hstack]
    exact hentries k (by omega)
  · refine ⟨hbound, hsucc.trans_le hlt, fun k hk => ?_⟩
    rw [hstack, Vector.getElem_set]
    split
    · bv_omega
    · exact hentries k (by omega)

/-- Settles O54: INIT resets the bounded parts, and an instruction is executed only where it was fetched from MEM. -/
theorem programCounterStaysBounded : Obligations.ProgramCounterStaysBounded := by
  intro s t hs h
  rcases step_control h with hsame | ⟨image, -, hsame⟩ | ⟨i, u, hpc, hexec, hsame⟩
  · exact pcBounded_of_sameControl hsame hs
  · exact pcBounded_of_sameControl hsame (loadImage_pcBounded s image)
  · exact pcBounded_of_sameControl hsame (exec_pcBounded hs hpc hexec)

/-! ## Runs from well-formed states (R49) -/

theorem step_keeps_wf {s t : State} (hs : s.wf) (h : step s = .next t) : t.wf :=
  ⟨stackPointerStaysLegal s t hs.1 h, memoryStaysCanonical s t hs.2 h⟩

/-- An instruction always answers a next state where SP is legal (log entry 7). -/
theorem exec_progress (i : Instr) {s : State} (h : s.sp.toNat ≤ 16) : ∃ t, exec i s = .next t := by
  cases hexec : exec i s with
  | next t => exact ⟨t, rfl⟩
  | fault f => exact absurd (exec_fault hexec) h.not_gt
  | refused r => exact absurd hexec (exec_not_refused i s r)

theorem runInstruction_progress {s : State} (h : s.sp.toNat ≤ 16) : ∃ t, runInstruction s = .next t := by
  unfold runInstruction
  split
  · exact ⟨_, rfl⟩
  · split
    · exact ⟨_, rfl⟩
    · exact exec_progress _ h

theorem stepCommand_progress {s : State} (h : s.sp.toNat ≤ 16) : ∃ t, stepCommand s = .next t := by
  obtain ⟨t, ht⟩ := runInstruction_progress h
  unfold stepCommand
  rw [ht]
  split <;> exact ⟨_, rfl⟩

/-- No command stops the machine where SP is legal. -/
theorem step_progress {s : State} (h : s.sp.toNat ≤ 16) : ∃ t, step s = .next t := by
  unfold step transact
  split
  · exact ⟨_, rfl⟩
  · exact ⟨_, rfl⟩
  · exact stepCommand_progress h
  · exact stepCommand_progress h

/-- Settles O55, by induction on the number of commands: a well-formed state answers a next one, which is well-formed. -/
theorem wellFormedRunsGoOn : Obligations.WellFormedRunsGoOn := by
  intro n
  induction n with
  | zero => exact fun s hs => ⟨s, rfl, hs⟩
  | succ n ih =>
    intro s hs
    obtain ⟨u, hstep⟩ := step_progress hs.1
    obtain ⟨t, hrun, ht⟩ := ih u (step_keeps_wf hs hstep)
    exact ⟨t, (core_run_succ core n s u hstep).trans hrun, ht⟩

/-- Settles O56: after reset MEM lists no byte, the stack is empty, and PC is 0x200. -/
theorem resetMeetsInvariants : Obligations.ResetMeetsInvariants :=
  ⟨⟨Nat.zero_le _, Memory.nil_wf⟩, by decide, Nat.zero_le _, fun _ hk => absurd hk (Nat.not_lt_zero _)⟩

end Sys2Proof
end

section
/-! Proofs of 10_state R33: VF. An instruction that neither computes a flag in this state nor has VF as its destination writes V[x] for an X other than F, registers below F, or none. -/

namespace Sys2Proof
open Machine

/-- Without `ADD_I_SETS_VF` FX1E gives VF its old value back (44_memory_index R262). -/
theorem readV_vf_writeIndexFlag_of_off {s : State} (sum : Nat) (h : s.params.addISetsVF = false) :
    (s.writeIndexFlag sum).readV 0xF = s.readV 0xF := by
  rw [readV_vf_writeIndexFlag, h]
  rfl

/-- FX65 reaches VF only where X is F. -/
theorem readV_vf_loadRegs_of_ne {s : State} {x : RegIdx} (a : Nat) (h : x ≠ vfIdx) :
    (s.loadRegs a (x.toNat + 1)).readV 0xF = s.readV 0xF := by
  have hlt : ¬ (0xF : RegIdx).toNat < x.toNat + 1 := by
    unfold vfIdx at h
    bv_omega
  rw [s.readV_loadRegs a _ (by omega), if_neg hlt]

/-- VF after an instruction that is not listed. -/
theorem exec_keeps_vf {i : Instr} {s t : State} (h : exec i s = .next t) (hflag : writesFlag i s = false)
    (hdest : writesVFAsDestination i = false) : t.readV 0xF = s.readV 0xF := by
  cases i with
  | addReg | sub | shr | subn | shl | drw => cases hflag
  | addIVx x => cases h; exact readV_vf_writeIndexFlag_of_off _ hflag
  | ldByte | addByte | ldReg | or | and | xor | ldVxDT | ldVxK =>
    cases h
    exact s.readV_writeV_of_ne _ (Ne.symm (beq_eq_false_iff_ne.1 hdest))
  | rnd x nn =>
    cases h
    exact (s.takeRnd.readV_writeV_of_ne _ (Ne.symm (beq_eq_false_iff_ne.1 hdest))).trans (s.readV_takeRnd _)
  | ldVxMem x =>
    rcases execLdVxMem_next h with ⟨-, rfl⟩ | rfl
    · exact readV_vf_loadRegs_of_ne _ (beq_eq_false_iff_ne.1 hdest)
    · rfl
  | sys nnn => rcases execSys_next (nnn := nnn) h with ⟨-, rfl⟩ | ⟨-, rfl⟩ <;> rfl
  | call nnn => rcases execCall_next h with ⟨-, rfl⟩ | ⟨-, rfl⟩ <;> rfl
  | ret => rcases execRet_next h with ⟨-, rfl⟩ | ⟨-, -, rfl⟩ <;> rfl
  | ldBVx x => rcases execLdBVx_next h with ⟨-, rfl⟩ | rfl <;> rfl
  | ldMemVx x => rcases execLdMemVx_next h with ⟨-, rfl⟩ | rfl <;> rfl
  | _ => cases h; rfl

/-- Settles O50: the other instructions keep VF. -/
theorem onlyListedInstructionsChangeVF : Obligations.OnlyListedInstructionsChangeVF := by
  intro i s t h hchanged
  by_contra hnot
  simp only [not_or, Bool.not_eq_true] at hnot
  obtain ⟨hflag, hdest⟩ := hnot
  exact hchanged (exec_keeps_vf h hflag hdest)

end Sys2Proof
end

section
/-! Proofs about the call stack over more than one instruction (43_jump_call_return R234): a return address stays in place while SP stays above it, and each CALL of a row counts SP up. -/

namespace Sys2Proof
open Machine

/-! ## A return address below SP stays -/

/-- An instruction leaves every stack entry below SP in place: a push writes the entry at SP. -/
theorem exec_keeps_entry {i : Instr} {s t : State} (h : exec i s = .next t) {k : Fin 16} (hk : k.val < s.sp.toNat) :
    t.stack[k.val] = s.stack[k.val] := by
  rcases exec_stack_sp h with ⟨hstack, -⟩ | ⟨hlt, hstack, -⟩
  · rw [hstack]
  · rw [hstack, Vector.getElem_set, if_neg hk.ne']

/-- So does a command, where SP stays above the entry: an INIT that is accepted empties the stack. -/
theorem step_keeps_entry {s t : State} (h : step s = .next t) {k : Fin 16} (hs : k.val < s.sp.toNat)
    (ht : k.val < t.sp.toNat) : t.stack[k.val] = s.stack[k.val] := by
  rcases step_control h with ⟨-, -, hstack, -⟩ | ⟨image, -, -, -, -, hsp⟩ | ⟨i, u, -, hexec, -, -, hstack, -⟩
  · rw [hstack]
  · rw [hsp] at ht
    exact absurd ht (Nat.not_lt_zero _)
  · rw [hstack, exec_keeps_entry hexec hs]

/-- Along a trace of commands that never takes SP down to the entry, the entry stays. -/
theorem trace_keeps_entry {trace : Nat → State} {n : Nat} {k : Fin 16}
    (hstep : ∀ j, j < n → step (trace j) = .next (trace (j + 1))) (hsp : ∀ j, j ≤ n → k.val < (trace j).sp.toNat) :
    (trace n).stack[k.val] = (trace 0).stack[k.val] := by
  induction n with
  | zero => rfl
  | succ n ih =>
    rw [step_keeps_entry (hstep n (by omega)) (hsp n (by omega)) (hsp (n + 1) le_rfl),
      ih (fun j hj => hstep j (by omega)) (fun j hj => hsp j (by omega))]

/-- Settles O20: the CALL leaves the return address just below SP, where the trace keeps it and RET finds it. -/
theorem nestedCallsReturn : Obligations.NestedCallsReturn := by
  intro s t nnn k trace hcall _ hlt h0 hstep hlow hback
  rw [exec_call_of_lt nnn hlt] at hcall
  obtain rfl := Host.Outcome.next.inj hcall
  have hsucc : (s.sp + 1).toNat = s.sp.toNat + 1 := s.sp_succ hlt
  have hsp : (trace k).sp.toNat = s.sp.toNat + 1 := (congrArg BitVec.toNat hback).trans hsucc
  have hentry : (trace k).stack[s.sp.toNat] = s.pc + 2 := by
    rw [trace_keeps_entry (k := ⟨s.sp.toNat, hlt⟩) hstep fun j hj => hsucc.symm.trans_le (hlow j hj)]
    simp [h0]
  refine ⟨_, exec_ret_of_succ (k := ⟨s.sp.toNat, hlt⟩) hsp, hentry, ?_⟩
  exact BitVec.eq_of_toNat_eq (sp_pred_of_succ hsp)

/-! ## Calls in a row -/

/-- A row of at most sixteen CALLs from an empty stack counts SP up and raises no error. -/
theorem calls_count_sp {target : Nat → Addr12} {trace : Nat → State} (h0 : (trace 0).sp = 0)
    (hcall : ∀ j, j < 17 → exec (.call (target j)) (trace j) = .next (trace (j + 1))) :
    ∀ j, j ≤ 16 → (trace j).sp.toNat = j ∧ (trace j).err = (trace 0).err := by
  intro j
  induction j with
  | zero => exact fun _ => ⟨congrArg BitVec.toNat h0, rfl⟩
  | succ j ih =>
    intro hj
    obtain ⟨hsp, herr⟩ := ih (by omega)
    have hlt : (trace j).sp.toNat < 16 := by omega
    have hnext := Host.Outcome.next.inj ((exec_call_of_lt (target j) hlt).symm.trans (hcall j (by omega)))
    rw [← hnext]
    exact ⟨((trace j).sp_succ hlt).trans (congrArg (· + 1) hsp), herr⟩

/-- Settles O21: after sixteen CALLs the stack is full. -/
theorem seventeenthCallOverflows : Obligations.SeventeenthCallOverflows := by
  intro target trace h0 hcall
  have hcount := calls_count_sp h0 hcall
  have hfull : (trace 16).sp.toNat = 16 := (hcount 16 le_rfl).1
  exact ⟨hcount, (Host.Outcome.next.inj ((exec_call_of_full (target 16) hfull).symm.trans (hcall 16 (by decide)))).symm⟩

/-! ## An SP that is not legal -/

/-- Settles O19: above 16 neither the push nor the pop finds an entry. -/
theorem illegalStackPointerStops : Obligations.IllegalStackPointerStops := by
  intro s nnn h
  have hfull : s.sp ≠ 16 := fun e => absurd (congrArg BitVec.toNat e) h.ne'
  have hempty : s.sp ≠ 0 := fun e => absurd (congrArg BitVec.toNat e) (Nat.zero_lt_of_lt h).ne'
  have hpop : 16 ≤ (s.sp - 1).toNat := by
    rw [s.sp_pred hempty]
    omega
  constructor
  · rw [exec, execCall, if_neg hfull, s.pushReturn_of_ge _ h.le]
  · rw [exec, execRet, if_neg hempty, s.popReturn_of_ge hpop]

end Sys2Proof
end

section
/-! Proof of 20_memory R84: a store is seen by the fetch of the very next instruction. -/

namespace Sys2Proof
open Machine

/-- Settles O28: both bytes of the word at the next PC lie in the block just stored. -/
theorem storeIsFetchedNext : Obligations.StoreIsFetchedNext := by
  intro s x k hm hrange hk hpc
  obtain ⟨-, -, hcompletes⟩ := storeRegisterBlock s x hm
  obtain ⟨t, hexec, hread, -, hnext, -⟩ := hcompletes hrange
  have hsucc : (k + 1).toNat = k.toNat + 1 := by bv_omega
  have hnextPc : t.pc.toNat = s.i.toNat + k.toNat := by
    rw [hnext]
    bv_omega
  have hlow := hread (k + 1) (by omega)
  rw [hsucc, ← Nat.add_assoc] at hlow
  refine ⟨t, hexec, (?_ : t.fetch = _)⟩
  rw [fetch_of_in_memory (by omega), hnextPc, hread k hk.le, hlow]

end Sys2Proof
end

section
/-! Proofs of 60_exceptions, with the STEP of 40_step_cycle R148 they start from: which error FETCH, DECODE and EXECUTE raise, that nothing but ERR is written where they do, and what a latched error lets each command do. -/

namespace Sys2Proof
open Machine

/-! ## The instruction a STEP runs (40_step_cycle R142 to R145) -/

/-- Where the word fetched decodes to an instruction, the STEP executes it. -/
theorem runInstruction_of_decode {s : State} {w : Word} {i : Instr} (hf : s.fetch = some w) (hd : decode w = .instr i) :
    runInstruction s = exec i s := by
  simp only [runInstruction, hf, hd]

/-- Where the word fetched decodes to no instruction, the STEP raises UnknownOpcode (R401). -/
theorem runInstruction_of_unknownOpcode {s : State} {w : Word} (hf : s.fetch = some w)
    (hd : decode w = .unknownOpcode) : runInstruction s = raiseError s .unknownOpcode := by
  simp only [runInstruction, hf, hd]

/-- The STEP of a completed instruction, as the ports show it (40_step_cycle R146, R147). -/
theorem finishStep_of_exec {i : Instr} {s t : State} (h : exec i s = .next t) :
    t.finishStep.pending = s.pending.tail ∧
    (t.err = 0 → t.finishStep.snapshot = t.committed s.keysIn ∧ t.finishStep.response = .ok) ∧
    (t.err ≠ 0 → t.finishStep.snapshot = t.snapshot ∧ t.finishStep.response = .error t.err) := by
  obtain ⟨-, hpending, hdraws, -, -⟩ := exec_keeps_outside h
  rw [t.finishStep_pending, t.finishStep_snapshot, t.finishStep_response, hpending,
    State.keysIn_congr hpending hdraws]
  exact ⟨rfl, fun he => ⟨if_pos he, if_pos he⟩, fun he => ⟨if_neg he, if_neg he⟩⟩

/-- Settles O43: the outcome of exec decides between COMMIT, ABORT and a stop. -/
theorem stepRunsDecodedInstruction : Obligations.StepRunsDecodedInstruction := by
  intro s i hs he hpc hd
  have hf := fetch_of_in_memory hpc
  have hstep : step s = stepCommand s := step_of_stepNext hs
  refine ⟨fun t hi => ⟨t.finishStep, step_of_exec hs he hf hd hi, finishStep_of_exec hi⟩, fun f hi => ?_, fun r hi => ?_⟩ <;>
    rw [hstep, stepCommand, if_pos he, runInstruction_of_decode hf hd, hi]

/-! ## The errors of a STEP (R400, R401, R412) -/

/-- Settles O46: DECODE raises UnknownOpcode, whose code is 2. -/
theorem unknownOpcodeIsRaised : Obligations.UnknownOpcodeIsRaised := fun _ hs he hpc hd =>
  step_raise_changes_only_err hs he (runInstruction_of_unknownOpcode (fetch_of_in_memory hpc) hd)

/-- Running one instruction leaves ERR, or takes one of the five step errors and writes nothing else. -/
theorem runInstruction_err {s t : State} (h : runInstruction s = .next t) :
    t.err = s.err ∨ ∃ e : CoreError, e ≠ .programTooLarge ∧ t = s.raise e := by
  rcases runInstruction_next h with ⟨-, rfl⟩ | ⟨w, -, -, rfl⟩ | ⟨w, i, -, -, hexec⟩
  · exact Or.inr ⟨.outOfBounds, by decide, rfl⟩
  · exact Or.inr ⟨.unknownOpcode, by decide, rfl⟩
  · refine (exec_err hexec).imp id fun ⟨e, he, ht⟩ => ⟨e, ?_, ht⟩
    rintro rfl
    revert he
    decide

/-- The codes of the step errors (R400). -/
theorem code_mem_of_ne_programTooLarge {e : CoreError} (h : e ≠ .programTooLarge) :
    e.code ∈ [1#3, 2#3, 3#3, 4#3, 6#3] := by
  cases e with
  | programTooLarge => exact absurd rfl h
  | _ => decide

/-- Settles O47: the STEP of an instruction that raises an error aborts the state that differs in ERR alone. -/
theorem errorChangesOnlyErr : Obligations.ErrorChangesOnlyErr := by
  intro s t hs he h ht
  rw [step_of_stepNext hs] at h
  rcases stepCommand_next h with ⟨hlatched, -⟩ | ⟨-, u, hrun, rfl⟩
  · exact absurd he hlatched
  obtain ⟨-, -, -, -, -, -, -, -, -, herr, -⟩ := u.finishStep_core
  rw [herr] at ht ⊢
  rcases runInstruction_err hrun with hclear | ⟨e, hstep, rfl⟩
  · exact absurd (hclear.trans he) ht
  · rw [State.finishStep_snapshot, State.finishStep_response, if_neg ht, if_neg ht]
    exact ⟨State.raise_snapshot s e, rfl, code_mem_of_ne_programTooLarge hstep⟩

/-! ## What the error depends on (R402) -/

/-- The error an instruction raises, from what the spec says it depends on: `SYS_POLICY`, SP and I. -/
def raisedBy (i : Instr) (policy : SysPolicy) (sp : BitVec 5) (index : Nat) : Option CoreError :=
  match i with
  | .sys _ => if policy = .unsupported then some .unsupported else none
  | .call _ => if sp = 16 then some .stackOverflow else none
  | .ret => if sp = 0 then some .stackUnderflow else none
  | .drw _ _ n => if rangeInMemory index n.toNat then none else some .outOfBounds
  | .ldBVx _ => if rangeInMemory index 3 then none else some .outOfBounds
  | .ldMemVx x | .ldVxMem x => if rangeInMemory index (blockLength x) then none else some .outOfBounds
  | _ => none

/-- ERR where `e` is the error raised, if any. -/
def errAfter (s : State) (e : Option CoreError) : BitVec 3 := e.elim s.err CoreError.code

/-- An instruction that checks a range of MEM first raises OutOfBounds exactly where the range leaves it (20_memory R74). -/
theorem err_of_rangeCheck {base len : Nat} {s t u : State}
    (h : (if rangeInMemory base len then .next u else raiseError s .outOfBounds) = Host.Outcome.next t)
    (hu : u.err = s.err) : t.err = errAfter s (if rangeInMemory base len then none else some .outOfBounds) := by
  split at h
  · next hr =>
    cases h
    rw [if_pos hr]
    exact hu
  · next hr =>
    cases h
    rw [if_neg hr]
    rfl

/-- An instruction raises the error that `raisedBy` names. -/
theorem exec_err_eq {i : Instr} {s t : State} (h : exec i s = .next t) :
    t.err = errAfter s (raisedBy i s.params.sysPolicy s.sp s.i.toNat) := by
  cases i with
  | sys nnn =>
    rcases execSys_next (nnn := nnn) h with ⟨hpolicy, rfl⟩ | ⟨hpolicy, rfl⟩ <;> rw [hpolicy] <;> rfl
  | call nnn =>
    rcases execCall_next h with ⟨hfull, rfl⟩ | ⟨hlt, rfl⟩
    · rw [raisedBy, if_pos hfull]
      rfl
    · have hfull : s.sp ≠ 16 := fun e => absurd (congrArg BitVec.toNat e) hlt.ne
      rw [raisedBy, if_neg hfull]
      rfl
  | ret =>
    rcases execRet_next h with ⟨hempty, rfl⟩ | ⟨hempty, -, rfl⟩
    · rw [raisedBy, if_pos hempty]
      rfl
    · rw [raisedBy, if_neg hempty]
      rfl
  | drw x y n => exact err_of_rangeCheck (u := afterDraw s x y n) h rfl
  | ldBVx x => exact err_of_rangeCheck (u := (s.storeBytes _ _).advance) h rfl
  | ldMemVx x => exact err_of_rangeCheck (u := (s.storeBytes _ _).advance) h rfl
  | ldVxMem x =>
    refine err_of_rangeCheck (u := (s.loadRegs _ _).advance) h ?_
    rw [State.loadRegs_advance_fields]
  | rnd x nn => cases h; exact s.takeRnd_err
  | _ => cases h; rfl

/-- The error FETCH, DECODE or EXECUTE raises, in the order of R413. -/
def stepError (s : State) : Option CoreError :=
  match s.fetch with
  | none => some .outOfBounds
  | some w =>
    match decode w with
    | .unknownOpcode => some .unknownOpcode
    | .instr i => raisedBy i s.params.sysPolicy s.sp s.i.toNat

theorem runInstruction_err_eq {s t : State} (h : runInstruction s = .next t) : t.err = errAfter s (stepError s) := by
  unfold stepError
  rcases runInstruction_next h with ⟨hf, rfl⟩ | ⟨w, hf, hd, rfl⟩ | ⟨w, i, hf, hd, hexec⟩
  · rw [hf]
    rfl
  · simp only [hf, hd]
    rfl
  · simp only [hf, hd]
    exact exec_err_eq hexec

/-- A STEP with no error latched ends with the error it raised. -/
theorem step_err_eq {s t : State} (hs : s.stepNext = true) (he : s.err = 0) (h : step s = .next t) :
    t.err = errAfter s (stepError s) := by
  rw [step_of_stepNext hs] at h
  rcases stepCommand_next h with ⟨hlatched, -⟩ | ⟨-, u, hrun, rfl⟩
  · exact absurd he hlatched
  · obtain ⟨-, -, -, -, -, -, -, -, -, herr, -⟩ := u.finishStep_core
    rw [herr, runInstruction_err_eq hrun]

theorem stepError_congr {s s' : State} (h : s.agreeForErrors s') : stepError s = stepError s' := by
  obtain ⟨hpc, hmem, hi, hsp, hpolicy⟩ := h
  have hfetch : s.fetch = s'.fetch := by rw [State.fetch_eq, State.fetch_eq, hpc, hmem, hmem]
  rw [stepError, stepError, hfetch, hi, hsp, hpolicy]

/-- Settles O49: the error raised is a function of the parts on which the states agree. -/
theorem errorsIgnoreInputs : Obligations.ErrorsIgnoreInputs := by
  intro s s' t t' hagree hs hs' he he' h h'
  rw [step_err_eq hs he h, step_err_eq hs' he' h', stepError_congr hagree, errAfter, errAfter, he, he']

/-! ## A latched error (R411) -/

theorem step_of_init {s : State} {image : List Byte} {rest : List Command} (h : s.pending = .init image :: rest) :
    step s = .next (s.init image).dropCommand := by
  rw [step, transact, h]

/-- An image that fits is accepted (70_reset R450). -/
theorem init_of_fits (s : State) {image : List Byte} (h : image.length ≤ 3584) :
    s.init image = (s.loadImage image).respond .ok :=
  if_neg h.not_gt

/-- An image that is too long is rejected (70_reset R450). -/
theorem init_of_too_long (s : State) {image : List Byte} (h : 3584 < image.length) :
    s.init image = s.respond (.error 5) :=
  if_pos h

/-- Settles O48, by the command: a STEP is the latched one, a TICK reads no ERR, and INIT is decided by the length of its image. -/
theorem onlyInitClearsError : Obligations.OnlyInitClearsError := by
  refine fun s t he h => ⟨fun hs => ?_, fun rest hp => ?_, fun image rest hp hfits => ?_, fun hrejected => ?_⟩
  · obtain rfl := Host.Outcome.next.inj ((step_of_latched hs he).symm.trans h)
    exact ⟨s.latchedStep_snapshot, rfl⟩
  · obtain rfl := Host.Outcome.next.inj ((step_of_tick hp).symm.trans h)
    exact ⟨afterTick_dt_toNat s, afterTick_st_toNat s, rfl⟩
  · obtain rfl := Host.Outcome.next.inj ((step_of_init hp).symm.trans h)
    rw [init_of_fits s hfits]
    rfl
  · rcases step_next h with ⟨rest, -, rfl⟩ | ⟨image, rest, hp, rfl⟩ | ⟨hs, -⟩
    · rfl
    · rw [init_of_too_long s (hrejected image rest hp)]
      rfl
    · obtain rfl := Host.Outcome.next.inj ((step_of_latched hs he).symm.trans h)
      rfl

end Sys2Proof
end

section
/-! Proofs of 70_reset_and_hazards: what INIT leaves in every element of 10_state R48, of which power-on and reset are the case of an empty image. -/

namespace Sys2Proof
open Machine

/-! ## MEM after INIT (R450): the image, the font and zeros -/

/-- MEM as INIT leaves it: the image where it lies, else what the font's memory holds. -/
theorem read_loadImage (s : State) (image : List Byte) (a : Nat) : (s.loadImage image).mem.read a =
    if 0x200 ≤ a ∧ a < 0x200 + image.length then image.getD (a - 0x200) 0 else (Memory.withFont s.params).read a :=
  Memory.read_load image 0x200 a _ (Memory.withFont_wf s.params).1

theorem read_loadImage_image (s : State) {image : List Byte} {k : Nat} (hk : k < image.length) :
    (s.loadImage image).mem.read (0x200 + k) = image[k] := by
  rw [read_loadImage, if_pos (by omega), Nat.add_sub_cancel_left, List.getD_eq_getElem _ _ hk]

/-- The font lies below 0x200 wherever it is placed, so no image reaches it (20_memory R76). -/
theorem read_loadImage_font (s : State) (image : List Byte) (j : Fin 80) :
    (s.loadImage image).mem.read (s.params.fontBase.val + j.val) = s.params.fontData[j.val] := by
  rw [read_loadImage, if_neg (by omega), Memory.read_withFont, if_pos (by omega)]
  simp

theorem read_loadImage_elsewhere (s : State) {image : List Byte} {a : Nat}
    (himage : ¬ (0x200 ≤ a ∧ a < 0x200 + image.length))
    (hfont : ¬ (s.params.fontBase.val ≤ a ∧ a < s.params.fontBase.val + 80)) :
    (s.loadImage image).mem.read a = 0 := by
  rw [read_loadImage, if_neg himage, Memory.read_withFont, if_neg hfont]

/-! ## The other elements -/

theorem readV_loadImage (s : State) (image : List Byte) (k : RegIdx) : (s.loadImage image).readV k = 0 :=
  Vector.getElem_replicate _

/-- Settles O60: the length of the image decides between the reset state with the image loaded and the state as it was. -/
theorem initLoadsImage : Obligations.InitLoadsImage := by
  refine fun s image rest hp => ⟨fun hfits => ?_, fun hlong => ?_⟩
  · exact ⟨((s.loadImage image).respond .ok).dropCommand, init_of_fits s hfits ▸ step_of_init hp, rfl,
      fun k hk => read_loadImage_image s hk, read_loadImage_font s image,
      fun a himage hfont => read_loadImage_elsewhere s himage hfont, readV_loadImage s image,
      rfl, rfl, rfl, fun k => Vector.getElem_replicate _, rfl, rfl, pixel_zero, rfl, rfl⟩
  · exact ⟨(s.respond (.error 5)).dropCommand, init_of_too_long s hlong ▸ step_of_init hp, rfl, rfl⟩

/-! ## Power-on and reset (R452) -/

theorem powerOn_reset_params : State.powerOn State.reset.params = State.reset := by
  have hmem : Memory.load [] progBase (Memory.withFont specParams) = [] := Memory.withFont_specParams
  unfold State.powerOn State.loadImage
  simp only [State.reset, hmem]

/-- At reset PC lies in zeroed memory. -/
theorem reset_fetch : State.reset.fetch = some 0x0000 := by decide

/-- The zero word is SYS, which the spec's policy does not support (49_legacy R391). -/
theorem reset_runInstruction : runInstruction State.reset = raiseError State.reset .unsupported :=
  (runInstruction_of_decode (i := .sys 0) reset_fetch rfl).trans (exec_sys_of_unsupported 0 rfl)

/-- Settles O59: INIT keeps only the parameters and the model's own fields, and the first STEP executes the zero word. -/
theorem powerOnIsEmptyInit : Obligations.PowerOnIsEmptyInit := by
  refine ⟨fun s rest hp => ⟨_, step_of_init hp, rfl⟩, powerOn_reset_params, reset_fetch, ?_⟩
  obtain ⟨t, hstep, hsnap, hresponse⟩ := step_raise_changes_only_err rfl rfl reset_runInstruction
  exact ⟨t, hstep, congrArg Snapshot.err hsnap, congrArg Snapshot.pc hsnap, hresponse⟩

/-- Reset memory reads as the spec's font, then zeros. -/
theorem read_reset (a : Nat) : State.reset.mem.read a = specFontData.toList.getD a 0 := by
  simp [State.reset, Memory.read, Memory.background_eq]

/-- Settles O58: MEM lists no byte, so it reads as the reset contents, whose font is the literal list. -/
theorem resetValues : Obligations.ResetValues := by
  refine ⟨read_reset, rfl, fun j => ?_,
    fun k => Vector.getElem_replicate _, rfl, rfl, rfl, fun k => Vector.getElem_replicate _, rfl, rfl, pixel_zero, rfl, rfl⟩
  rw [read_reset]
  exact (fontData_getD specParams j.val j.isLt).symm

end Sys2Proof
end
